-- ==== Sys2Proof/Word.lean ====
section
/-! DEFINITION. The 64-bit register word and the two conversions of 00_scope.md R13 between words and
mathematical integers; the text type of an instruction token. -/

namespace Sys2Proof

/-- The content of one register: 64 bits (R7 `XLEN`, R12). -/
abbrev Word := BitVec 64

/-- `ToWord(v) = v mod 2^64` (R13). -/
def toWord (v : Int) : Word := BitVec.ofInt 64 v

/-- `sint64(w)`: the two's-complement signed reading of a word (R13). -/
def sint64 (w : Word) : Int := w.toInt

/-- A token, or any other text the core works on: its characters in order (R6, R90). -/
abbrev Token := List Char

end Sys2Proof
end

