-- ==== Sys2Proof/Syntax.lean ====
section
/-! DEFINITION. The instruction set as syntax: the general registers and their views, the operand forms, the
thirteen macro-instructions and the eight micro-ops, one constructor of `Instr` per row of the opcode table. -/

namespace Sys2Proof

/-- A general register: its name, one of the parameter `GPR_NAMES` (R7, R21). Which names those are is no part of the
type; `Instr.wf` asks for them (log entry 3). -/
abbrev Gpr := Token

/-- The width-suffix letter of a register token, or its absence (R22). `q` and no suffix name the same view and are
different tokens. -/
inductive Suffix where
  | none | b | w | l | q
  deriving DecidableEq, Repr

/-- A width in bytes: of a register view (R22) or of a micro-op (`operandWidth`, R99, R100). -/
inductive Width where
  | one | two | four | eight
  deriving DecidableEq, Repr

/-- The width as a number of bytes. -/
def Width.bytes : Width → Nat
  | .one => 1
  | .two => 2
  | .four => 4
  | .eight => 8

/-- The view a suffix selects: `b` 1, `w` 2, `l` 4, `q` or none 8 bytes (R22). -/
def Suffix.view : Suffix → Width
  | .b => .one
  | .w => .two
  | .l => .four
  | .q => .eight
  | .none => .eight

/-- A register token: a general register's name with at most one suffix letter (R22). -/
structure RegTok where
  reg : Gpr
  suffix : Suffix
  deriving DecidableEq, Repr

/-- A readable operand: Register(token), Memory(expr) or Immediate(i64) (R94). A Memory operand keeps the whole
bracketed token, which the AGU reads at Execute (R97). -/
inductive Operand where
  | reg (t : RegTok)
  | mem (expr : Token)
  | imm (v : Int)
  deriving DecidableEq, Repr

/-- A writable operand: Register(token) or Memory(expr) (R98: an Immediate is no destination). -/
inductive Dest where
  | reg (t : RegTok)
  | mem (expr : Token)
  deriving DecidableEq, Repr

/-- A destination read as an operand (`inc` and `dec` read what they write, R101). -/
def Dest.toOperand : Dest → Operand
  | .reg t => .reg t
  | .mem e => .mem e

/-- The seven condition names of the JMP micro-op (R100, R102). -/
inductive Cond where
  | mp | e | ne | g | l | ge | le
  deriving DecidableEq, Repr

/-- One constructor per row of the opcode table: the thirteen macro-instructions (R93) with their operands in the
order of the token string, then the eight micro-ops (R100), each with its operand and its `operandWidth`. -/
inductive Instr where
  | mov (a : Dest) (b : Operand)
  | jmp (a : Operand)
  | je (a : Operand)
  | jne (a : Operand)
  | jg (a : Operand)
  | jl (a : Operand)
  | jge (a : Operand)
  | jle (a : Operand)
  | inc (a : Dest)
  | dec (a : Dest)
  | cmp (a : Operand) (b : Operand)
  | syscall
  | noop
  | microLoad (a : Operand) (w : Width)
  | microSto (a : Dest) (w : Width)
  | microAdd (a : Operand) (w : Width)
  | microSub (a : Operand) (w : Width)
  | microCmp (a : Operand) (w : Width)
  | microJmp (c : Cond) (w : Width)
  | microSyscall (w : Width)
  | microNoop (w : Width)
  deriving DecidableEq, Repr

/-- The eight micro-op opcode names (R100), as a reorder entry records them (R38). -/
inductive Opcode where
  | LOAD | STO | ADD | SUB | CMP | JMP | SYSCALL | NOOP
  deriving DecidableEq, Repr

/-- A micro-op `(opcode, operand, operandWidth)`, the item of the pipeline buffer (R39, R100): the same eight
operations as the last eight constructors of `Instr`. -/
inductive MicroOp where
  | load (a : Operand) (w : Width)
  | sto (a : Dest) (w : Width)
  | add (a : Operand) (w : Width)
  | sub (a : Operand) (w : Width)
  | cmp (a : Operand) (w : Width)
  | jmp (c : Cond) (w : Width)
  | syscall (w : Width)
  | noop (w : Width)
  deriving DecidableEq, Repr

/-- The micro-op's `opcode` (R100). -/
def MicroOp.opcode : MicroOp → Opcode
  | .load _ _ => .LOAD
  | .sto _ _ => .STO
  | .add _ _ => .ADD
  | .sub _ _ => .SUB
  | .cmp _ _ => .CMP
  | .jmp _ _ => .JMP
  | .syscall _ => .SYSCALL
  | .noop _ => .NOOP

/-- The micro-op's `operandWidth` (R100). -/
def MicroOp.width : MicroOp → Width
  | .load _ w => w
  | .sto _ w => w
  | .add _ w => w
  | .sub _ w => w
  | .cmp _ w => w
  | .jmp _ w => w
  | .syscall w => w
  | .noop w => w

/-- The micro-op as an instruction of the opcode table. -/
def MicroOp.toInstr : MicroOp → Instr
  | .load a w => .microLoad a w
  | .sto a w => .microSto a w
  | .add a w => .microAdd a w
  | .sub a w => .microSub a w
  | .cmp a w => .microCmp a w
  | .jmp c w => .microJmp c w
  | .syscall w => .microSyscall w
  | .noop w => .microNoop w

/-- The micro-op an instruction of the opcode table is, where it is one and not a macro-instruction. -/
def Instr.toMicroOp : Instr → Option MicroOp
  | .microLoad a w => some (.load a w)
  | .microSto a w => some (.sto a w)
  | .microAdd a w => some (.add a w)
  | .microSub a w => some (.sub a w)
  | .microCmp a w => some (.cmp a w)
  | .microJmp c w => some (.jmp c w)
  | .microSyscall w => some (.syscall w)
  | .microNoop w => some (.noop w)
  | .mov _ _ => none
  | .jmp _ => none
  | .je _ => none
  | .jne _ => none
  | .jg _ => none
  | .jl _ => none
  | .jge _ => none
  | .jle _ => none
  | .inc _ => none
  | .dec _ => none
  | .cmp _ _ => none
  | .syscall => none
  | .noop => none

end Sys2Proof
end

