-- ==== Sys2Proof/Config.lean ====
section
/-! DEFINITION. The implementation parameters of 00_scope.md R7, which a model takes as an argument. They are one
record of plain data that State carries and no step changes (R46), so that every statement over all states speaks of
every predictor variant and every capacity. -/

namespace Sys2Proof

/-- `PREDICTOR`, the variant built into the core (R7, R173). -/
inductive PredictorKind where
  | alwaysNotTaken | alwaysTaken | oneBit | twoBit | gshare
  deriving DecidableEq, Repr

/-- `HASH` (R7, R128, U7): the decided identity, or any other total function on integers, named by a number and left
uninterpreted (log entry 5). -/
inductive HashFn where
  | identity
  | other (n : Nat)
  deriving DecidableEq, Repr

/-- `PARITY` (R7, R266, U10): the decided even parity of the low 8 bits, or any other total function, named by a number
and left uninterpreted (log entry 5). -/
inductive ParityFn where
  | evenLow8
  | other (n : Nat)
  deriving DecidableEq, Repr

/-- The hash functions other than the identity: nothing is known of them but that they are total (U7). -/
opaque Config.otherHash : Nat → Int → Int

/-- The parity functions other than the decided one: nothing is known of them but that they are total (U10). -/
opaque Config.otherParity : Nat → Int → Bool

/-- The numeric value of a circular buffer's front index at the debug boundary (R120, R349, U6): unspecified. The
arguments are the buffer's number (0 `rob`, 1 `pb`), its size and the cycle count. -/
opaque Config.frontIndex : Nat → Nat → Nat → Int

/-- The numeric value of a circular buffer's rear index at the debug boundary (R120, R349, U6): unspecified. -/
opaque Config.rearIndex : Nat → Nat → Nat → Int

/-- The parameters of R7. -/
structure Config where
  predictor : PredictorKind
  acc : Gpr
  gprNames : List Gpr
  robCapacity : Nat
  pbCapacity : Nat
  btbCapacity : Nat
  dirCapacity : Nat
  ghrLength : Nat
  obqCapacity : Nat
  memSize : Nat
  hash : HashFn
  sysWriteBufReg : Gpr
  sysWriteLenReg : Gpr
  segTextReg : Token
  segDataReg : Token
  cycleBase : Nat
  parity : ParityFn
  stallAfterMatch : Bool
  flushStallsFetch : Bool
  deriving DecidableEq, Repr

/-- The sixteen names R21 takes for `GPR_NAMES`, in its order. -/
def Config.defaultNames : List Gpr :=
  [['r', 'a', 'x'], ['r', 'b', 'x'], ['r', 'c', 'x'], ['r', 'd', 'x'], ['r', 's', 'i'], ['r', 'd', 'i'],
   ['r', 's', 'p'], ['r', 'b', 'p'], ['r', '8'], ['r', '9'], ['r', '1', '0'], ['r', '1', '1'], ['r', '1', '2'],
   ['r', '1', '3'], ['r', '1', '4'], ['r', '1', '5']]

/-- The value or default of each parameter in R7's table; `PREDICTOR`, for which the table gives none, is the one
95_test_vectors.md section 7 assumes unless it says otherwise (log entry 4). -/
def Config.default : Config where
  predictor := .alwaysNotTaken
  acc := ['r', 'a', 'x']
  gprNames := Config.defaultNames
  robCapacity := 8
  pbCapacity := 8
  btbCapacity := 16
  dirCapacity := 16
  ghrLength := 4
  obqCapacity := 4
  memSize := 64
  hash := .identity
  sysWriteBufReg := ['r', 's', 'i']
  sysWriteLenReg := ['r', 'd', 'x']
  segTextReg := ['c', 's']
  segDataReg := ['d', 's']
  cycleBase := 1
  parity := .evenLow8
  stallAfterMatch := true
  flushStallsFetch := true

/-- The letters a width suffix is written with (R22). -/
def suffixLetters : Token := ['b', 'w', 'l', 'q']

/-- R7's constraint on `GPR_NAMES`, a set of names: `rax`, `rbx` and `rcx` are there, and no name is another name followed
by a suffix letter, so that a register token is read in one way only (R22). -/
def gprNamesWf (names : List Gpr) : Bool :=
  decide names.Nodup && names.contains ['r', 'a', 'x'] && names.contains ['r', 'b', 'x'] &&
  names.contains ['r', 'c', 'x'] && names.all (fun n => suffixLetters.all (fun c => !names.contains (n ++ [c])))

/-- The internal registers that share the register file with the general ones and that no program can name (R47): `rip`,
`mar`, `mbr`, `cir` and the two segment registers (R37). -/
def Config.internalNames (c : Config) : List Token :=
  [['r', 'i', 'p'], ['m', 'a', 'r'], ['m', 'b', 'r'], ['c', 'i', 'r'], c.segTextReg, c.segDataReg]

/-- The registers with a role are general registers, and no internal register is one (R7, R25, R47, R270). -/
def Config.namesWf (c : Config) : Bool :=
  gprNamesWf c.gprNames && c.gprNames.contains c.acc && c.gprNames.contains c.sysWriteBufReg &&
  c.gprNames.contains c.sysWriteLenReg && c.internalNames.all (fun n => !c.gprNames.contains n)

/-- The constraints of R7 and R140 on the parameters (`MEM_SIZE` is constrained by the executable, R63;
log entry 17). -/
def Config.wf (c : Config) : Bool :=
  c.namesWf &&
  decide (4 ≤ c.robCapacity) && decide (4 ≤ c.pbCapacity) && decide (1 ≤ c.btbCapacity) &&
  decide (1 ≤ c.dirCapacity) && decide (1 ≤ c.ghrLength) && decide (1 ≤ c.obqCapacity) &&
  decide (c.obqCapacity ≤ c.ghrLength) && decide (c.cycleBase ≤ 1)

end Sys2Proof
end

