-- ==== Sys2Proof/Decode.lean ====
section
/-! DEFINITION. The decoder: a token string to a macro-instruction (30_encoding.md R90 to R99), and the text of a
pipeline-buffer slot to a micro-op (R100, R108 format U), with the register names as an argument (R7); total on any characters, each failure named as the spec names
it. After it the encoder, from the same tables, and the host's numeric form of a token. -/

namespace Sys2Proof

/-- Space and tab are the only characters that separate tokens (R91). -/
def isBlank (c : Char) : Bool := c == ' ' || c == '\t'

/-- The value is a signed 64-bit integer (R94 test 3; R60 for a Number). -/
def inInt64 (v : Int) : Bool := decide (-2 ^ 63 ≤ v) && decide (v < 2 ^ 63)

/-- The token begins with `[` and ends with `]` (R94 test 1). -/
def isBracketed (t : Token) : Bool :=
  match t with
  | '[' :: rest => rest.getLast? == some ']'
  | _ => false

/-- Maximal runs of characters that are not blank, in order; `acc` holds the run being read, newest character first. -/
def splitFrom : Token → Token → List Token
  | [], [] => []
  | [], a :: acc => [(a :: acc).reverse]
  | c :: cs, acc =>
    if isBlank c then
      match acc with
      | [] => splitFrom cs []
      | a :: acc' => (a :: acc').reverse :: splitFrom cs []
    else splitFrom cs (c :: acc)

/-- Decode splits the token string at white space; leading and trailing white space is ignored (R91). -/
def splitBlanks (t : Token) : List Token := splitFrom t []

/-! ### Register tokens (R22) -/

/-- The general register with this name, one of `GPR_NAMES` (R21); no internal register is one (R47). -/
def gprOfName (names : List Gpr) (t : Token) : Option Gpr := names.find? (fun g => g == t)

/-- The letters a suffix is written with (R22). -/
def Suffix.text : Suffix → Token
  | .none => []
  | .b => ['b']
  | .w => ['w']
  | .l => ['l']
  | .q => ['q']

/-- The suffix a letter is (R22). -/
def suffixOfChar : Char → Option Suffix
  | 'b' => some .b
  | 'w' => some .w
  | 'l' => some .l
  | 'q' => some .q
  | _ => none

/-- A register token: the name that equals the whole token, or the token without its last character when that is one of
`b w l q` (R22). -/
def regTokOf (names : List Gpr) (t : Token) : Option RegTok :=
  match gprOfName names t with
  | some g => some ⟨g, .none⟩
  | none =>
    match t.getLast?.bind suffixOfChar, gprOfName names t.dropLast with
    | some s, some g => some ⟨g, s⟩
    | _, _ => none

/-! ### Immediates (R94 test 3, R96) -/

/-- One of the ten decimal digits (R92 `digit`). -/
def isDecimal (c : Char) : Bool := decide ('0' ≤ c) && decide (c ≤ '9')

/-- The natural number a run of decimal digits spells; leading zeros mean nothing (R96, R153 b). -/
def natOfDigits (t : Token) : Nat := t.foldl (fun n c => 10 * n + (c.toNat - '0'.toNat)) 0

/-- A non-empty run of decimal digits (R92 `digit+`). -/
def isDigits (t : Token) : Bool := !t.isEmpty && t.all isDecimal

/-- The integer a token of the form `-?[0-9]+` spells (R94 test 3). -/
def intOf (t : Token) : Option Int :=
  match t with
  | '-' :: ds => if isDigits ds then some (-(natOfDigits ds : Int)) else none
  | ds => if isDigits ds then some (natOfDigits ds : Int) else none

/-! ### Operands and instructions -/

/-- A comma stands in the token (R91, C5). -/
def hasComma (t : Token) : Bool := t.contains ','

/-- The operand form of a token: the first of the three tests that succeeds (R94); a token with a comma inside or at the
end has none, be it bracketed (R91, 90_conflicts.md C5). -/
def operandOf (names : List Gpr) (t : Token) : Option Operand :=
  if hasComma t then none
  else if isBracketed t then some (.mem t)
  else
    match regTokOf names t with
    | some r => some (.reg r)
    | none =>
      match intOf t with
      | some v => if inInt64 v then some (.imm v) else none
      | none => none

/-- The operand as a destination: an Immediate is none (R98). -/
def Operand.toDest : Operand → Option Dest
  | .reg t => some (.reg t)
  | .mem e => some (.mem e)
  | .imm _ => none

/-- Every token's operand form, left to right; none if some token has none (R94 test 4, R339). -/
def operandsOf (names : List Gpr) : List Token → Option (List Operand)
  | [] => some []
  | t :: ts =>
    match operandOf names t with
    | none => none
    | some o => (operandsOf names ts).map (o :: ·)

/-- What Decode can raise, with the whole token string it carries (R93, R94, R98, R331). -/
inductive DecodeError where
  /-- The first token is none of the thirteen mnemonics, or there is none (R93, R332). -/
  | invalidOpcode (tok : Token)
  /-- An operand token of no form, a wrong operand count, or an Immediate destination (R94, R98). -/
  | malformedInstruction (tok : Token)
  deriving DecidableEq, Repr

/-- The thirteen mnemonics (R93). -/
inductive Mnemonic where
  | mov | jmp | je | jne | jg | jl | jge | jle | inc | dec | cmp | syscall | noop
  deriving DecidableEq, Repr

/-- The spelling of a mnemonic (R92, R93). -/
def Mnemonic.name : Mnemonic → Token
  | .mov => ['m', 'o', 'v']
  | .jmp => ['j', 'm', 'p']
  | .je => ['j', 'e']
  | .jne => ['j', 'n', 'e']
  | .jg => ['j', 'g']
  | .jl => ['j', 'l']
  | .jge => ['j', 'g', 'e']
  | .jle => ['j', 'l', 'e']
  | .inc => ['i', 'n', 'c']
  | .dec => ['d', 'e', 'c']
  | .cmp => ['c', 'm', 'p']
  | .syscall => ['s', 'y', 's', 'c', 'a', 'l', 'l']
  | .noop => ['n', 'o', 'o', 'p']

/-- All thirteen. -/
def Mnemonic.all : List Mnemonic :=
  [.mov, .jmp, .je, .jne, .jg, .jl, .jge, .jle, .inc, .dec, .cmp, .syscall, .noop]

/-- Matching is exact and case-sensitive (R93). -/
def mnemonicOf (t : Token) : Option Mnemonic := Mnemonic.all.find? (fun m => m.name == t)

/-- The instruction of a mnemonic with classified operands, when their count and shapes are those of R98. -/
def assemble (m : Mnemonic) (ops : List Operand) : Option Instr :=
  match m, ops with
  | .mov, [a, b] => a.toDest.map (fun d => .mov d b)
  | .jmp, [a] => some (.jmp a)
  | .je, [a] => some (.je a)
  | .jne, [a] => some (.jne a)
  | .jg, [a] => some (.jg a)
  | .jl, [a] => some (.jl a)
  | .jge, [a] => some (.jge a)
  | .jle, [a] => some (.jle a)
  | .inc, [a] => a.toDest.map .inc
  | .dec, [a] => a.toDest.map .dec
  | .cmp, [a, b] => some (.cmp a b)
  | .syscall, [] => some .syscall
  | .noop, [] => some .noop
  | _, _ => none

/-- Decode's reading of a token string on a core with these register names: split, mnemonic, operand forms, count and shapes, in that order (R226, R339). -/
def decode (names : List Gpr) (tok : Token) : Except DecodeError Instr :=
  match splitBlanks tok with
  | [] => .error (.invalidOpcode tok)
  | m :: rest =>
    match mnemonicOf m with
    | none => .error (.invalidOpcode tok)
    | some mn =>
      match operandsOf names rest with
      | none => .error (.malformedInstruction tok)
      | some ops =>
        match assemble mn ops with
        | none => .error (.malformedInstruction tok)
        | some i => .ok i

/-! ### The text of a pipeline-buffer slot (format U, R100, R108)

A program cannot write a micro-op (R100): `decode` refuses these texts as invalid opcodes. A slot is the text
`OPCODE operand` of the opcode table with its `operandWidth` beside it. -/

/-- The spelling of a micro-op's opcode (R100). -/
def Opcode.name : Opcode → Token
  | .LOAD => ['L', 'O', 'A', 'D']
  | .STO => ['S', 'T', 'O']
  | .ADD => ['A', 'D', 'D']
  | .SUB => ['S', 'U', 'B']
  | .CMP => ['C', 'M', 'P']
  | .JMP => ['J', 'M', 'P']
  | .SYSCALL => ['S', 'Y', 'S', 'C', 'A', 'L', 'L']
  | .NOOP => ['N', 'O', 'O', 'P']

/-- All eight. -/
def Opcode.all : List Opcode := [.LOAD, .STO, .ADD, .SUB, .CMP, .JMP, .SYSCALL, .NOOP]

/-- The opcode with this name. -/
def opcodeOf (t : Token) : Option Opcode := Opcode.all.find? (fun o => o.name == t)

/-- The spelling of a condition: its jump's mnemonic without the leading `j` (R102). -/
def Cond.name : Cond → Token
  | .mp => ['m', 'p']
  | .e => ['e']
  | .ne => ['n', 'e']
  | .g => ['g']
  | .l => ['l']
  | .ge => ['g', 'e']
  | .le => ['l', 'e']

/-- All seven. -/
def Cond.all : List Cond := [.mp, .e, .ne, .g, .l, .ge, .le]

/-- The condition with this name. -/
def condOf (t : Token) : Option Cond := Cond.all.find? (fun c => c.name == t)

/-- The micro-op an opcode makes with the texts of its operands and a width (R275's operand column). -/
def assembleMicro (names : List Gpr) (o : Opcode) (args : List Token) (w : Width) : Option MicroOp :=
  match o, args with
  | .LOAD, [a] => (operandOf names a).map (fun x => .load x w)
  | .STO, [a] => ((operandOf names a).bind Operand.toDest).map (fun x => .sto x w)
  | .ADD, [a] => (operandOf names a).map (fun x => .add x w)
  | .SUB, [a] => (operandOf names a).map (fun x => .sub x w)
  | .CMP, [a] => (operandOf names a).map (fun x => .cmp x w)
  | .JMP, [c] => (condOf c).map (fun x => .jmp x w)
  | .SYSCALL, [] => some (.syscall w)
  | .NOOP, [] => some (.noop w)
  | _, _ => none

/-- The micro-op of a slot's text and width. -/
def decodeSlot (names : List Gpr) (text : Token) (w : Width) : Option MicroOp :=
  match splitBlanks text with
  | [] => none
  | o :: args => (opcodeOf o).bind (fun op => assembleMicro names op args w)

/-! ### The encoder -/

/-- A natural number in decimal, without leading zeros. -/
def decimal (n : Nat) : Token :=
  if n = 0 then ['0'] else ((Nat.digits 10 n).map Nat.digitChar).reverse

/-- An immediate's text (R96). -/
def immText (v : Int) : Token := if v < 0 then '-' :: decimal v.natAbs else decimal v.natAbs

/-- A register token's text (R22). -/
def RegTok.text (t : RegTok) : Token := t.reg ++ t.suffix.text

/-- An operand's text (R92). -/
def Operand.text : Operand → Token
  | .reg t => t.text
  | .mem e => e
  | .imm v => immText v

/-- A destination's text (R92). -/
def Dest.text : Dest → Token
  | .reg t => t.text
  | .mem e => e

/-- A mnemonic or opcode and operand texts, one space between each two (R107). -/
def joinText (head : Token) (args : List Token) : Token := head ++ (args.map (' ' :: ·)).flatten

/-- The text of a micro-op's slot, its `operandWidth` not in it (R100, R108). -/
def MicroOp.text : MicroOp → Token
  | .load a _ => joinText Opcode.LOAD.name [a.text]
  | .sto a _ => joinText Opcode.STO.name [a.text]
  | .add a _ => joinText Opcode.ADD.name [a.text]
  | .sub a _ => joinText Opcode.SUB.name [a.text]
  | .cmp a _ => joinText Opcode.CMP.name [a.text]
  | .jmp c _ => joinText Opcode.JMP.name [c.name]
  | .syscall _ => Opcode.SYSCALL.name
  | .noop _ => Opcode.NOOP.name

/-- The text of an instruction: the token string of a macro-instruction (R92, R107), the slot text of a micro-op. -/
def encode : Instr → Token
  | .mov a b => joinText Mnemonic.mov.name [a.text, b.text]
  | .jmp a => joinText Mnemonic.jmp.name [a.text]
  | .je a => joinText Mnemonic.je.name [a.text]
  | .jne a => joinText Mnemonic.jne.name [a.text]
  | .jg a => joinText Mnemonic.jg.name [a.text]
  | .jl a => joinText Mnemonic.jl.name [a.text]
  | .jge a => joinText Mnemonic.jge.name [a.text]
  | .jle a => joinText Mnemonic.jle.name [a.text]
  | .inc a => joinText Mnemonic.inc.name [a.text]
  | .dec a => joinText Mnemonic.dec.name [a.text]
  | .cmp a b => joinText Mnemonic.cmp.name [a.text, b.text]
  | .syscall => Mnemonic.syscall.name
  | .noop => Mnemonic.noop.name
  | .microLoad a w => (MicroOp.load a w).text
  | .microSto a w => (MicroOp.sto a w).text
  | .microAdd a w => (MicroOp.add a w).text
  | .microSub a w => (MicroOp.sub a w).text
  | .microCmp a w => (MicroOp.cmp a w).text
  | .microJmp c w => (MicroOp.jmp c w).text
  | .microSyscall w => (MicroOp.syscall w).text
  | .microNoop w => (MicroOp.noop w).text

/-! ### The host's numeric form (log entry 7) -/

/-- The characters of `n` bytes of a number, the lowest byte first. -/
def bytesText : Nat → Nat → Token
  | 0, _ => []
  | n + 1, w => Char.ofNat (w % 256) :: bytesText n (w / 256)

/-- The text that `nbits` bits hold: one character a byte, the first character lowest, NUL characters at the end being
padding and no part of it. -/
def textOfBits (nbits w : Nat) : Token :=
  ((bytesText ((nbits + 7) / 8) w).reverse.dropWhile (fun c => c == Char.ofNat 0)).reverse

/-- The width of a slot given as text alone: the narrowest suffix of its register operand, as R99 derives it. -/
def slotWidth (names : List Gpr) (text : Token) : Width :=
  match splitBlanks text with
  | [_, a] =>
    match regTokOf names a with
    | some t => t.suffix.view
    | none => .eight
  | _ => .eight

/-- The instruction a text stands for: a token string, else a slot text. -/
def instrOfText (names : List Gpr) (text : Token) : Option Instr :=
  match decode names text with
  | .ok i => some i
  | .error _ => (decodeSlot names text (slotWidth names text)).map MicroOp.toInstr

/-- The instruction the decoder, with the register names R21 takes, reads from the bits `w`, `nbits` of them (log entry 7). -/
def decodeTableWord (nbits w : Nat) : Option Instr := instrOfText Config.defaultNames (textOfBits nbits w)

end Sys2Proof
end

