-- ==== Sys2Proof/Machine/State.lean ====
section
/-! DEFINITION. The whole state of one processor (10_state.md R20) as plain data, the reasons a step can stop
(60_exceptions.md R331, R337), and the state after reset (R45). -/

namespace Sys2Proof.Machine

/-! ### The parts of the state -/

/-- The general registers: each one's name and its 64 bits, in the order of `GPR_NAMES` (R21; log entry 3). -/
abbrev RegFile := List (Gpr × Word)

/-- The names of the registers a file has. -/
def RegFile.names (f : RegFile) : List Gpr := f.map Prod.fst

/-- One register for each name, each 0 (R45). -/
def RegFile.zero (names : List Gpr) : RegFile := names.map (fun g => (g, 0))

/-- The flags register: three independent booleans (R31). -/
structure Flags where
  sf : Bool
  zf : Bool
  pf : Bool
  deriving DecidableEq, Repr

/-- The stage stall flags (R32). -/
structure Stalls where
  fetch : Bool
  decode : Bool
  execute : Bool
  deriving DecidableEq, Repr

/-- What the current-instruction register holds: the token and the speculative marker beside it (R30). -/
structure Fetched where
  token : Token
  speculative : Bool
  deriving DecidableEq, Repr

/-- What a written memory cell holds, an element of the executable or of the output: a raw number or an
instruction-token string (R60, R62, R270; log entry 13). -/
inductive Content where
  | number (v : Int)
  | token (t : Token)
  deriving DecidableEq, Repr

/-- Main memory (R42, R60): the written cells by address, addresses strictly rising. A cell that is not listed is
Unwritten (R70) and has no content (log entry 12). -/
abbrev Memory := List (Nat × Content)

/-- The canonical form: addresses strictly rising, each at most once. There is no content an unlisted cell reads as, so
no entry is superfluous. -/
abbrev Memory.wf (m : Memory) : Prop := (m.map Prod.fst).Pairwise (· < ·)

/-- A reorder entry (R38). -/
structure RobEntry where
  opcode : Opcode
  issuing : Int
  speculative : Bool
  deriving DecidableEq, Repr

/-- A branch target buffer entry (R41, R134). -/
structure BtbEntry where
  source : Int
  destination : Int
  deriving DecidableEq, Repr

/-- A direction buffer entry's certainty, whose meaning depends on the predictor: the boolean last outcome, or a 0-3
saturating counter (R41). -/
inductive Certainty where
  | outcome (taken : Bool)
  | counter (n : Fin 4)
  deriving DecidableEq, Repr

/-- A direction buffer entry (R41, R134); under gshare `source` holds the history-mixed index (R182). -/
structure DirEntry where
  source : Int
  certainty : Certainty
  deriving DecidableEq, Repr

/-- The predictor's state (R41): the one-shot stall flag; the two hash tables, each the list of its slots (R127); the
global history register and the outstanding branch queue, oldest entry first (R138). A variant uses the parts it needs
(R173). -/
structure PredictorState where
  stalled : Bool
  btb : List (Option BtbEntry)
  dir : List (Option DirEntry)
  ghr : List Bool
  obq : List Bool
  deriving DecidableEq, Repr

/-- The state of one processor instance (R20). `config` is the model's own field: the parameters of R7, which R46 makes
arguments of the step; no step changes it (log entry 1). -/
structure State where
  /-- The parameters the core was built with (R7, R46). -/
  config : Config
  /-- The general registers (R21). -/
  gpr : RegFile
  /-- The program counter (R26). -/
  rip : Word
  /-- The memory-address register (R28). -/
  mar : Word
  /-- The memory-buffer register, or empty (R29). -/
  mbr : Option Token
  /-- The current-instruction register, or empty (R30). -/
  cir : Option Fetched
  /-- The flags register (R31). -/
  flags : Flags
  /-- The segment/base register seeded with textStart (R37). -/
  cs : Int
  /-- The segment/base register seeded with dataStart (R37). -/
  ds : Int
  /-- The stage stall flags (R32). -/
  stall : Stalls
  /-- Running, or Halted when false (R33, R231). -/
  running : Bool
  /-- The number of cycles started (R34). -/
  cycle : Nat
  /-- The cycle numbers of correctly predicted branches, oldest first (R35). -/
  predicted : List Nat
  /-- The cycle numbers of mispredicted branches, oldest first (R35). -/
  mispredicted : List Nat
  /-- The values handed to the output sink, oldest first (R36). -/
  output : List Content
  /-- The reorder buffer's items, the head first (R38, R120). -/
  rob : List RobEntry
  /-- The pipeline buffer's items, the head first (R39, R120). -/
  pb : List MicroOp
  /-- The predictor (R41). -/
  predictor : PredictorState
  /-- Main memory (R42). -/
  mem : Memory
  /-- Trace: the token Fetch read last, or empty (R43). -/
  lastFetched : Option Token
  /-- Trace: the group Decode inserted last, or empty (R43). -/
  lastDecoded : List MicroOp
  /-- Trace: the micro-op Execute dispatched last, or empty (R43). -/
  lastExecuted : Option MicroOp
  deriving DecidableEq, Repr

/-! ### The ways a step can stop -/

/-- The fatal errors (R331): each aborts the run, carries what the table says, and leaves no state a rule reads (R338; log
entry 15).
All are the machine's own behaviour, so stopping there is safe. -/
inductive Fault where
  /-- Raised by Decode: the first token is none of the thirteen mnemonics, or there is none (R332). Safe. -/
  | invalidOpcode (tok : Token)
  /-- Raised by Decode: operand of no form, wrong count, Immediate destination (R94, R98). Safe. -/
  | malformedInstruction (tok : Token)
  /-- Raised by the AGU at Execute: the expression cannot be evaluated (R155, R157, R333). Safe. -/
  | malformedExpression (expr : Token)
  /-- Raised by the AGU at Execute: `/` with divisor 0 (R156). Safe. -/
  | aguDivideByZero (expr : Token)
  /-- Raised by Fetch or Execute: a cell address below 0 or at or above `MEM_SIZE` (R61). Safe. -/
  | memoryOutOfRange (a : Int)
  /-- Raised by Fetch: the cell holds a Number (R69). Safe. -/
  | fetchNonToken (a : Int)
  /-- Raised by a data read at Execute: the cell holds a Token (R69). Safe. -/
  | loadNonNumber (a : Int)
  /-- Raised by `add` on a full circular buffer, in a run only by the gshare `predict` in Fetch (R121, R334). Safe. -/
  | bufferFull
  /-- Raised by `add` on a hash table with no empty slot, in JMP's predictor update (R129, R188). Safe. -/
  | tableFull
  /-- Raised by `update` of a key not present; no rule reaches it (R131, R335). Safe. -/
  | notFound
  deriving DecidableEq, Repr

/-- The refusals: conditions to which the spec gives no behaviour (R10, R337); a claim then says nothing of what follows,
so each is safe. -/
inductive Refusal where
  /-- An instruction with no meaning in the model: no arm of `exec` answers it. Safe. -/
  | notModelled (mnemonic : String)
  /-- Answered by `boot` before the first cycle: the executable is not well formed (R63). Safe. -/
  | malformedExecutable
  /-- Answered by Fetch, a data read or SYSCALL 1 that meets a cell nothing has written (R70). Safe. -/
  | unwrittenCellRead (a : Int)
  /-- Answered by SYSCALL with a number other than 1 and 60 (R272). Safe. -/
  | unknownSyscall (n : Nat)
  /-- Answered by a circular buffer's `get` at or beyond its size (R123). Safe. -/
  | staleSlotRead
  /-- Answered by Decode when `cir` is empty, which R226 says never happens (log entry 10). Safe. -/
  | emptyInstructionRegister
  deriving DecidableEq, Repr

/-- What an operation of the machine answers: a value, a fatal error, or a refusal (R10). -/
abbrev Result (α : Type) := Host.Outcome α Fault Refusal

/-! ### Reset -/

/-- The predictor at reset: stalled, tables empty, GHR `GHR_LENGTH` times false, OBQ empty (R45). -/
def PredictorState.reset (c : Config) : PredictorState where
  stalled := true
  btb := List.replicate c.btbCapacity none
  dir := List.replicate c.dirCapacity none
  ghr := List.replicate c.ghrLength false
  obq := []

/-- Every item of R45's table (log entry 14) that does not come from the executable, for a core built with the parameters `c`, and
nothing loaded: memory lists nothing, and `cs`, `ds`, `rip`, which the executable seeds, are 0 (log entry 6). -/
def State.unloaded (c : Config) : State where
  config := c
  gpr := RegFile.zero c.gprNames
  rip := 0
  mar := 0
  mbr := none
  cir := none
  flags := ⟨false, false, false⟩
  cs := 0
  ds := 0
  stall := ⟨false, true, true⟩
  running := true
  cycle := 0
  predicted := []
  mispredicted := []
  output := []
  rob := []
  pb := []
  predictor := PredictorState.reset c
  mem := []
  lastFetched := none
  lastDecoded := []
  lastExecuted := none

/-- The machine right after reset with the default parameters and no executable (R45; log entry 6). `boot` in
Sys2Proof/Machine/Boot.lean is the reset of R45 with an executable. -/
def State.reset : State := State.unloaded Config.default

end Sys2Proof.Machine
end

