-- ==== Sys2Proof/Machine/Ops.lean ====
section
/-! DEFINITION. The named operations over registers, memory and control state that the meanings share. The machine has
no trap and no trap return (60_exceptions.md R330, R342, R343): what stands in their place is `flush` (43_pipeline.md
R230), the only abort-and-resume mechanism (R340), and `redirect`, its use by a mispredicted JMP. -/

namespace Sys2Proof.Machine

/-- Run `f` on what `x` answers; a fatal error or a refusal ends the run there (R338, R339). -/
def andThen {α β : Type} (x : Result α) (f : α → Result β) : Result β :=
  match x with
  | .next a => f a
  | .fault r => .fault r
  | .refused r => .refused r

/-! ### General registers (R21 to R24) -/

/-- `x[g]` (R14). A name the file does not have, which no operand of a run names, reads 0 (log entry 18). -/
def RegFile.get : RegFile → Gpr → Word
  | [], _ => 0
  | (n, w) :: f, g => if g = n then w else RegFile.get f g

/-- `x[g] <- w` (R14): all 64 bits of one register. A name the file does not have is added to it (log entry 18). -/
def RegFile.set : RegFile → Gpr → Word → RegFile
  | [], g, w => [(g, w)]
  | (n, v) :: f, g, w => if g = n then (n, w) :: f else (n, v) :: RegFile.set f g w

/-- The integer a view of a word reads as: the 8-byte view signed, a narrow view its low bytes unsigned (R23). -/
def readView (v : Width) (w : Word) : Int :=
  match v with
  | .eight => sint64 w
  | .four => ((w.setWidth 32).toNat : Int)
  | .two => ((w.setWidth 16).toNat : Int)
  | .one => ((w.setWidth 8).toNat : Int)

/-- The word after its low bytes, those of the view, took the low bytes of the integer; the bytes above the view stay
(R24). -/
def writeView (v : Width) (old : Word) (n : Int) : Word :=
  match v with
  | .eight => toWord n
  | .four => old.extractLsb' 32 32 ++ (toWord n).extractLsb' 0 32
  | .two => old.extractLsb' 16 48 ++ (toWord n).extractLsb' 0 16
  | .one => old.extractLsb' 8 56 ++ (toWord n).extractLsb' 0 8

/-- `x[g]` in a state. -/
def State.reg (s : State) (g : Gpr) : Word := s.gpr.get g

/-- `x[g] <- w` in a state. -/
def State.setReg (s : State) (g : Gpr) (w : Word) : State := { s with gpr := s.gpr.set g w }

/-- `RegRead(tok)` (R23). -/
def State.regRead (s : State) (t : RegTok) : Int := readView t.suffix.view (s.reg t.reg)

/-- `RegWrite(tok, v)` (R24). -/
def State.regWrite (s : State) (t : RegTok) (v : Int) : State :=
  s.setReg t.reg (writeView t.suffix.view (s.reg t.reg) v)

/-- `RegRead(ripb)`: the narrowed program counter, 0 to 255 (R23, R26). -/
def State.ripb (s : State) : Int := readView .one s.rip

/-! ### The accumulator (R25) -/

/-- `x[ACC]`. -/
def State.accWord (s : State) : Word := s.reg s.config.acc

/-- `RegRead(ACC_W)`: the accumulator through its view of W bytes (44_microops.md, opening; R263). -/
def State.accRead (s : State) (w : Width) : Int := readView w s.accWord

/-- `x[ACC] <- ToWord(v)`. -/
def State.setAcc (s : State) (v : Int) : State := s.setReg s.config.acc (toWord v)

/-! ### Memory (R60, R61) -/

/-- The content of a cell; `none` is Unwritten (R70). -/
def Memory.read : Memory → Nat → Option Content
  | [], _ => none
  | (k, c) :: m, a => if a = k then some c else Memory.read m a

/-- The memory after a cell's whole content is replaced, in canonical form again. -/
def Memory.write : Memory → Nat → Content → Memory
  | [], a, c => [(a, c)]
  | (k, d) :: m, a, c =>
    if a < k then (a, c) :: (k, d) :: m
    else if a = k then (a, c) :: m
    else (k, d) :: Memory.write m a c

/-- The range check of every access (R61). -/
def State.inRange (s : State) (a : Int) : Bool := decide (0 ≤ a) && decide (a < s.config.memSize)

/-- `MemRead(a, 1)` (R61); the caller says what it does with an Unwritten cell. -/
def memRead (s : State) (a : Int) : Result (Option Content) :=
  if s.inRange a then .next (s.mem.read a.toNat) else .fault (.memoryOutOfRange a)

/-- `MemWrite(a, 1, c)` (R61). -/
def memWrite (s : State) (a : Int) (c : Content) : Result State :=
  if s.inRange a then .next { s with mem := s.mem.write a.toNat c } else .fault (.memoryOutOfRange a)

/-- A read that needs some content: an Unwritten cell is refused (R70). -/
def readWritten (s : State) (a : Int) : Result Content :=
  andThen (memRead s a) fun c =>
    match c with
    | none => .refused (.unwrittenCellRead a)
    | some d => .next d

/-- A data read: it needs a Number (R65 b, R69, R70). -/
def readNumber (s : State) (a : Int) : Result Int :=
  andThen (readWritten s a) fun c =>
    match c with
    | .number v => .next v
    | .token _ => .fault (.loadNonNumber a)

/-- A fetch: it needs a Token (R65 a, R69, R70). -/
def readToken (s : State) (a : Int) : Result Token :=
  andThen (readWritten s a) fun c =>
    match c with
    | .token t => .next t
    | .number _ => .fault (.fetchNonToken a)

/-- The contents of `n` consecutive cells from `a` on, in order (R270). -/
def readCells (s : State) : Nat → Int → Result (List Content)
  | 0, _ => .next []
  | n + 1, a =>
    andThen (readWritten s a) fun c =>
      andThen (readCells s n (a + 1)) fun cs => .next (c :: cs)

/-! ### Flags, results, output, control state -/

/-- The flags register is written as a whole (R31). -/
def State.setFlags (s : State) (f : Flags) : State := { s with flags := f }

/-- `output <- output ++ cs` (R36, R270). -/
def State.emit (s : State) (cs : List Content) : State := { s with output := s.output ++ cs }

/-- The number the current cycle carries in the result lists: `cycle` when `CYCLE_BASE` is 1, one less when it is 0
(R7, R34; log entry 9). -/
def State.cycleNumber (s : State) : Nat := s.cycle + s.config.cycleBase - 1

/-- `Predicted <- Predicted ++ [cycle]` (R267). -/
def State.recordPredicted (s : State) : State := { s with predicted := s.predicted ++ [s.cycleNumber] }

/-- `Mispredicted <- Mispredicted ++ [cycle]` (R267). -/
def State.recordMispredicted (s : State) : State := { s with mispredicted := s.mispredicted ++ [s.cycleNumber] }

/-- `cycle <- cycle + 1` (R221). -/
def State.tick (s : State) : State := { s with cycle := s.cycle + 1 }

/-- The predictor's state is replaced. -/
def State.setPredictor (s : State) (p : PredictorState) : State := { s with predictor := p }

/-- The stage stall flag of Fetch is written. -/
def State.setStallFetch (s : State) (b : Bool) : State := { s with stall := { s.stall with fetch := b } }

/-- `Flush()`: both buffers, `mar`, `mbr` and `cir` emptied, the stages stalled again, Fetch among them unless
`FLUSH_STALLS_FETCH` is false; nothing else (R230). -/
def State.flush (s : State) : State :=
  { s with
    rob := []
    pb := []
    mar := 0
    mbr := none
    cir := none
    stall := ⟨s.config.flushStallsFetch || s.stall.fetch, true, true⟩ }

/-- A misprediction's recovery: Flush, `x[rip] <- ToWord(T)`, and the record under Mispredicted (R267, R340). -/
def State.redirect (s : State) (target : Int) : State :=
  ({ s.flush with rip := toWord target } : State).recordMispredicted

/-- SYSCALL 60: `running <- false`, then Flush (R271). -/
def State.halt (s : State) : State := State.flush { s with running := false }

end Sys2Proof.Machine
end

