-- ==== Sys2Proof/Machine/Buffers.lean ====
section
/-! DEFINITION. The two storage primitives of 40_buffers.md: the circular buffer as the list of its items, the head first
(R120 to R126), and the hash-table buffer as the list of its slots (R127 to R132). -/

namespace Sys2Proof.Machine

/-! ### Circular buffer -/

/-- `add(item)` on a buffer of capacity `cap` (R121). -/
def circAdd {α : Type} (cap : Nat) (items : List α) (x : α) : Result (List α) :=
  if items.length < cap then .next (items ++ [x]) else .fault .bufferFull

/-- `add` of several items in order. -/
def circAddAll {α : Type} (cap : Nat) : List α → List α → Result (List α)
  | items, [] => .next items
  | items, x :: xs => andThen (circAdd cap items x) fun items' => circAddAll cap items' xs

/-- `remove()`: the head is dropped; nothing happens on an empty buffer (R122). -/
def circRemove {α : Type} (items : List α) : List α := items.tail

/-- `get(offset)`; at or beyond the size it is refused (R123). -/
def circGet {α : Type} (items : List α) (offset : Nat) : Result α :=
  match items[offset]? with
  | some x => .next x
  | none => .refused .staleSlotRead

/-- `free()`: the number of adds that can succeed in a row (R126). -/
def circFree {α : Type} (cap : Nat) (items : List α) : Nat := cap - items.length

/-! ### Hash-table buffer -/

/-- `HASH(k)` (R128). -/
def hashOf (h : HashFn) (k : Int) : Int :=
  match h with
  | .identity => k
  | .other n => Config.otherHash n k

/-- `home(k) = HASH(k) mod C`, the Euclidean remainder (R128). -/
def home (h : HashFn) (c : Nat) (k : Int) : Nat := (hashOf h k % (c : Int)).toNat

/-- The probe sequence of `k`: C slots from the home slot on, modulo C (R128). -/
def probes (h : HashFn) (c : Nat) (k : Int) : List Nat := (List.range c).map (fun i => (home h c k + i) % c)

/-- The item in a slot; `none` for an empty slot. -/
def slotAt {α : Type} (slots : List (Option α)) (j : Nat) : Option α := (slots[j]?).join

/-- The slot of the first occupied entry with key `k` along a probe sequence; none if an empty slot, or the end of the
sequence, is reached first (R130, R131). -/
def findSlot {α : Type} (keyOf : α → Int) (slots : List (Option α)) (k : Int) : List Nat → Option Nat
  | [] => none
  | j :: js =>
    match slotAt slots j with
    | none => none
    | some x => if keyOf x = k then some j else findSlot keyOf slots k js

/-- `get(k)`: the entry found, or absent (R130). -/
def tableGet {α : Type} (h : HashFn) (keyOf : α → Int) (slots : List (Option α)) (k : Int) : Option α :=
  (findSlot keyOf slots k (probes h slots.length k)).bind (slotAt slots)

/-- `add(item)`: into the first empty slot of its key's probe sequence (R129). -/
def tableAdd {α : Type} (h : HashFn) (keyOf : α → Int) (slots : List (Option α)) (x : α) : Result (List (Option α)) :=
  match (probes h slots.length (keyOf x)).find? (fun j => (slotAt slots j).isNone) with
  | some j => .next (slots.set j (some x))
  | none => .fault .tableFull

/-- The bulk insert: `add` of several items in list order; no rule of the core uses it (R132). -/
def tableAddAll {α : Type} (h : HashFn) (keyOf : α → Int) : List (Option α) → List α → Result (List (Option α))
  | slots, [] => .next slots
  | slots, x :: xs => andThen (tableAdd h keyOf slots x) fun slots' => tableAddAll h keyOf slots' xs

/-- `update(item)`: in place of the first entry with its key (R131). -/
def tableUpdate {α : Type} (h : HashFn) (keyOf : α → Int) (slots : List (Option α)) (x : α) : Result (List (Option α)) :=
  match findSlot keyOf slots (keyOf x) (probes h slots.length (keyOf x)) with
  | some j => .next (slots.set j (some x))
  | none => .fault .notFound

end Sys2Proof.Machine
end

