-- ==== Sys2Proof/Machine/Agu.lean ====
section
/-! DEFINITION. The address generation unit (41_agu.md): a pure function of an expression's text and the registers. -/

namespace Sys2Proof.Machine

/-- The four operators (R152). -/
inductive AguOp where
  | add | sub | mul | div
  deriving DecidableEq, Repr

/-- A token of an address expression (R152). -/
inductive ExprTok where
  | operand (t : Token)
  | op (o : AguOp)
  deriving DecidableEq, Repr

/-- The operator a character is (R152). -/
def aguOpOf : Char → Option AguOp
  | '+' => some .add
  | '-' => some .sub
  | '*' => some .mul
  | '/' => some .div
  | _ => none

/-- One enclosing pair of brackets is removed if present (R151). -/
def stripBrackets (e : Token) : Token :=
  match e with
  | '[' :: rest => if rest.getLast? = some ']' then rest.dropLast else e
  | _ => e

/-- The operand token of a run of characters read backwards, if the run is not empty. -/
def runTok : Token → List ExprTok
  | [] => []
  | c :: cs => [.operand (c :: cs).reverse]

/-- Operators one by one and the maximal runs of other characters between them, in order (R152); `acc` is the run being
read, newest character first. -/
def tokenizeFrom : Token → Token → List ExprTok
  | [], acc => runTok acc
  | c :: cs, acc =>
    match aguOpOf c with
    | some o => runTok acc ++ .op o :: tokenizeFrom cs []
    | none => tokenizeFrom cs (c :: acc)

/-- The tokens of an expression, brackets stripped (R151, R152). -/
def tokenize (e : Token) : List ExprTok := tokenizeFrom (stripBrackets e) []

/-- Precedence: 0 for `+` and `-`, 1 for `*` and `/` (R154). -/
def AguOp.prec : AguOp → Nat
  | .add => 0
  | .sub => 0
  | .mul => 1
  | .div => 1

/-- The operators popped from the stack before `o` is pushed, in the order they go to the output, and the stack left
(R154). -/
def popOps (o : AguOp) : List AguOp → List AguOp × List AguOp
  | [] => ([], [])
  | p :: st => if o.prec ≤ p.prec then (p :: (popOps o st).1, (popOps o st).2) else ([], p :: st)

/-- The shunting-yard conversion to postfix, from the operator stack `st` (R154). -/
def postfixFrom : List ExprTok → List AguOp → List ExprTok
  | [], st => st.map .op
  | .operand t :: ts, st => .operand t :: postfixFrom ts st
  | .op o :: ts, st => (popOps o st).1.map .op ++ postfixFrom ts (o :: (popOps o st).2)

/-- Infix to postfix (R154). -/
def toPostfix (ts : List ExprTok) : List ExprTok := postfixFrom ts []

/-- The value of an operand token: the view of a register of the snapshot, or the natural number its digits spell; any
other token has none (R153). -/
def operandValue (f : RegFile) (t : Token) : Option Int :=
  match regTokOf f.names t with
  | some r => some (readView r.suffix.view (f.get r.reg))
  | none => if isDigits t then some (natOfDigits t : Int) else none

/-- `apply(op, a, b)` on the mathematical integers; division rounds toward zero, and by zero is a fatal error that carries
the expression (R156). -/
def aguApply (expr : Token) (o : AguOp) (a b : Int) : Result Int :=
  match o with
  | .add => .next (a + b)
  | .sub => .next (a - b)
  | .mul => .next (a * b)
  | .div => if b = 0 then .fault (.aguDivideByZero expr) else .next (Int.tdiv a b)

/-- The evaluation of a postfix sequence with a value stack, top first (R155, R157). -/
def evalPostfix (expr : Token) (f : RegFile) : List ExprTok → List Int → Result Int
  | [], [v] => .next v
  | [], _ => .fault (.malformedExpression expr)
  | .op o :: ts, b :: a :: vs => andThen (aguApply expr o a b) fun v => evalPostfix expr f ts (v :: vs)
  | .op _ :: _, _ => .fault (.malformedExpression expr)
  | .operand t :: ts, vs =>
    match operandValue f t with
    | some v => evalPostfix expr f ts (v :: vs)
    | none => .fault (.malformedExpression expr)

/-- `generate(expr, registerSnapshot)` (R150). -/
def generate (expr : Token) (f : RegFile) : Result Int := evalPostfix expr f (toPostfix (tokenize expr)) []

end Sys2Proof.Machine
end

