-- ==== Sys2Proof/Machine/Operands.lean ====
section
/-! DEFINITION. Every operand form: its value (44_microops.md R261), its use as a destination (R263), and the operand
width a macro-instruction derives from it (30_encoding.md R99). -/

namespace Sys2Proof.Machine

/-- `value(operand)` (R261). -/
def operandVal (s : State) : Operand → Result Int
  | .imm v => .next v
  | .reg t => .next (s.regRead t)
  | .mem e => andThen (generate e s.gpr) fun a => readNumber s a

/-- The value `v` stored to a register view or to a memory cell, whose whole content it replaces (R263, R68). -/
def storeDest (s : State) (v : Int) : Dest → Result State
  | .reg t => .next (s.regWrite t v)
  | .mem e => andThen (generate e s.gpr) fun a => memWrite s a (.number v)

/-- One suffix's part in the width: `b` sets 1, `w` caps at 2, `l` caps at 4, `q` and none leave it (R99). -/
def narrowBy (w : Width) : Suffix → Width
  | .b => .one
  | .w => match w with
    | .one => .one
    | .two => .two
    | .four => .two
    | .eight => .two
  | .l => match w with
    | .one => .one
    | .two => .two
    | .four => .four
    | .eight => .four
  | .q => w
  | .none => w

/-- One operand's part in the width: only a Register operand has one (R99). -/
def narrowByOperand (w : Width) : Operand → Width
  | .reg t => narrowBy w t.suffix
  | .mem _ => w
  | .imm _ => w

/-- The operand width of a macro-instruction's operands, in order, from 8 (R99). -/
def operandWidth (ops : List Operand) : Width := ops.foldl narrowByOperand .eight

end Sys2Proof.Machine
end

