-- ==== Sys2Proof/Machine/Issue.lean ====
section
/-! DEFINITION. What Decode does with a macro-instruction: its micro-op group (30_encoding.md R99, R101) and the group's
insertion into both buffers, or the stall of Fetch when it does not fit (43_pipeline.md R226 to R229). -/

namespace Sys2Proof.Machine

/-- `LOAD a; JMP Cond(c)`, the group of every jump (R101, R102). -/
def jumpGroup (c : Cond) (a : Operand) : List MicroOp :=
  [.load a (operandWidth [a]), .jmp c (operandWidth [a])]

/-- The group of a macro-instruction, every micro-op with the group's width (R101); a micro-op is none. -/
def groupOf : Instr → Option (List MicroOp)
  | .mov a b => some [.load b (operandWidth [a.toOperand, b]), .sto a (operandWidth [a.toOperand, b])]
  | .jmp a => some (jumpGroup .mp a)
  | .je a => some (jumpGroup .e a)
  | .jne a => some (jumpGroup .ne a)
  | .jg a => some (jumpGroup .g a)
  | .jl a => some (jumpGroup .l a)
  | .jge a => some (jumpGroup .ge a)
  | .jle a => some (jumpGroup .le a)
  | .inc a => some [.load a.toOperand (operandWidth [a.toOperand]), .add (.imm 1) (operandWidth [a.toOperand]),
      .sto a (operandWidth [a.toOperand])]
  | .dec a => some [.load a.toOperand (operandWidth [a.toOperand]), .sub (.imm 1) (operandWidth [a.toOperand]),
      .sto a (operandWidth [a.toOperand])]
  | .cmp a b => some [.load b (operandWidth [a, b]), .cmp a (operandWidth [a, b])]
  | .syscall => some [.syscall (operandWidth [])]
  | .noop => some [.noop (operandWidth [])]
  | .microLoad _ _ => none
  | .microSto _ _ => none
  | .microAdd _ _ => none
  | .microSub _ _ => none
  | .microCmp _ _ => none
  | .microJmp _ _ => none
  | .microSyscall _ => none
  | .microNoop _ => none

/-- The reorder entry of a micro-op issued from `loc` with the fetch's marker (R38, R103, R228). -/
def robEntry (loc : Int) (spec : Bool) (u : MicroOp) : RobEntry := ⟨u.opcode, loc, spec⟩

/-- Both buffers have room for the whole group (R227). -/
def hasRoom (s : State) (group : List MicroOp) : Bool :=
  decide (group.length ≤ circFree s.config.robCapacity s.rob) &&
  decide (group.length ≤ circFree s.config.pbCapacity s.pb)

/-- The atomic insertion: the group to both buffers, the trace register, and the Fetch and Execute stall flags cleared
(R226, R228). -/
def insertGroup (s : State) (loc : Int) (spec : Bool) (group : List MicroOp) : Result State :=
  andThen (circAddAll s.config.robCapacity s.rob (group.map (robEntry loc spec))) fun rob =>
    andThen (circAddAll s.config.pbCapacity s.pb group) fun pb =>
      .next { s with
        rob := rob
        pb := pb
        lastDecoded := group
        stall := ⟨false, s.stall.decode, false⟩ }

/-- Decode's last part, for the group of the instruction in `cir`: insert it, or stall Fetch and change nothing else
(R226 to R229). -/
def issue (group : List MicroOp) (s : State) : Result State :=
  match s.cir with
  | none => .refused .emptyInstructionRegister
  | some f =>
    if hasRoom s group then insertGroup s (sint64 s.rip) f.speculative group
    else .next (s.setStallFetch true)

/-- The group of a macro-instruction issued. -/
def issueInstr (i : Instr) (s : State) : Result State := issue ((groupOf i).getD []) s

end Sys2Proof.Machine
end

