-- ==== Sys2Proof/Machine/Macro.lean ====
section
/-! DEFINITION. The thirteen macro-instructions (45_macro_instructions.md R301 to R313): what the machine does with one
is to issue its group at Decode (R226); the group's micro-ops then have its effect at Execute (R300; log entry 2). -/

namespace Sys2Proof.Machine

/-- `mov a b`: `LOAD b; STO a` (R301). -/
def execMov (a : Dest) (b : Operand) (s : State) : Result State := issueInstr (.mov a b) s

/-- `jmp a`: `LOAD a; JMP Cond(mp)` (R302). -/
def execJmp (a : Operand) (s : State) : Result State := issueInstr (.jmp a) s

/-- `je a`: `LOAD a; JMP Cond(e)` (R303). -/
def execJe (a : Operand) (s : State) : Result State := issueInstr (.je a) s

/-- `jne a`: `LOAD a; JMP Cond(ne)` (R304). -/
def execJne (a : Operand) (s : State) : Result State := issueInstr (.jne a) s

/-- `jg a`: `LOAD a; JMP Cond(g)` (R305). -/
def execJg (a : Operand) (s : State) : Result State := issueInstr (.jg a) s

/-- `jl a`: `LOAD a; JMP Cond(l)` (R306). -/
def execJl (a : Operand) (s : State) : Result State := issueInstr (.jl a) s

/-- `jge a`: `LOAD a; JMP Cond(ge)` (R307). -/
def execJge (a : Operand) (s : State) : Result State := issueInstr (.jge a) s

/-- `jle a`: `LOAD a; JMP Cond(le)` (R308). -/
def execJle (a : Operand) (s : State) : Result State := issueInstr (.jle a) s

/-- `inc a`: `LOAD a; ADD Immediate(1); STO a` (R309). -/
def execInc (a : Dest) (s : State) : Result State := issueInstr (.inc a) s

/-- `dec a`: `LOAD a; SUB Immediate(1); STO a` (R310). -/
def execDec (a : Dest) (s : State) : Result State := issueInstr (.dec a) s

/-- `cmp a b`: `LOAD b; CMP a` (R311). -/
def execCmp (a b : Operand) (s : State) : Result State := issueInstr (.cmp a b) s

/-- `syscall`: `SYSCALL None` (R312). -/
def execSyscall (s : State) : Result State := issueInstr .syscall s

/-- `noop`: `NOOP None` (R313). -/
def execNoop (s : State) : Result State := issueInstr .noop s

end Sys2Proof.Machine
end

