-- ==== Sys2Proof/Machine/Flags.lean ====
section
/-! DEFINITION. The flags: their one computation, by CMP (44_microops.md R266), and the conditions that read them
(R268). -/

namespace Sys2Proof.Machine

/-- The number of 1 bits of `d mod 256` is even (R266). -/
def evenParityLow8 (d : Int) : Bool :=
  (List.range 8).countP (fun i => (d % 256).toNat.testBit i) % 2 == 0

/-- `PARITY(d)` (R7, R266). -/
def parityOf (p : ParityFn) (d : Int) : Bool :=
  match p with
  | .evenLow8 => evenParityLow8 d
  | .other n => Config.otherParity n d

/-- The flags of a difference (R266). -/
def flagsOf (p : ParityFn) (d : Int) : Flags where
  sf := decide (d < 0)
  zf := decide (d = 0)
  pf := parityOf p d

/-- `cond(c)` against the current flags (R268). -/
def condHolds (c : Cond) (f : Flags) : Bool :=
  match c with
  | .e => f.zf
  | .ne => !f.zf
  | .g => f.sf
  | .l => !f.sf
  | .ge => f.sf || f.zf
  | .le => !f.sf || f.zf
  | .mp => true

end Sys2Proof.Machine
end

