-- ==== Sys2Proof/Machine/MicroData.lean ====
section
/-! DEFINITION. The data micro-ops LOAD, STO, ADD, SUB, CMP, and NOOP (44_microops.md R262 to R266, R273). A meaning is
the dispatch of the micro-op; the removal of the two buffer heads around it is Execute's (R260, R274). -/

namespace Sys2Proof.Machine

/-- LOAD: the operand's value into all 64 bits of the accumulator (R262). -/
def execMicroLoad (a : Operand) (_w : Width) (s : State) : Result State :=
  andThen (operandVal s a) fun v => .next (s.setAcc v)

/-- STO: the accumulator at the micro-op's width into a register view or a cell (R263). -/
def execMicroSto (a : Dest) (w : Width) (s : State) : Result State := storeDest s (s.accRead w) a

/-- ADD: wraps modulo 2^64, no flag (R264). -/
def execMicroAdd (a : Operand) (_w : Width) (s : State) : Result State :=
  andThen (operandVal s a) fun v => .next (s.setAcc (sint64 s.accWord + v))

/-- SUB: by negation then add, wraps modulo 2^64, no flag (R265). -/
def execMicroSub (a : Operand) (_w : Width) (s : State) : Result State :=
  andThen (operandVal s a) fun v => .next (s.setAcc (sint64 s.accWord + -v))

/-- CMP: the flags of the exact difference accumulator minus operand (R266). -/
def execMicroCmp (a : Operand) (_w : Width) (s : State) : Result State :=
  andThen (operandVal s a) fun v => .next (s.setFlags (flagsOf s.config.parity (sint64 s.accWord - v)))

/-- NOOP: no effect (R273). -/
def execMicroNoop (_w : Width) (s : State) : Result State := .next s

end Sys2Proof.Machine
end

