-- ==== Sys2Proof/Machine/Predictor.lean ====
section
/-! DEFINITION. The branch predictor family (42_predictors.md): `predict`, `update` and `stall` of the five variants over
the shared state. -/

namespace Sys2Proof.Machine

/-- `keyOf` of the branch target buffer (R134). -/
def BtbEntry.key (e : BtbEntry) : Int := e.source

/-- `keyOf` of the direction buffer (R134). -/
def DirEntry.key (e : DirEntry) : Int := e.source

/-- `BTB.get(k)`. -/
def btbGet (c : Config) (p : PredictorState) (k : Int) : Option BtbEntry := tableGet c.hash BtbEntry.key p.btb k

/-- `DIR.get(k)`. -/
def dirGet (c : Config) (p : PredictorState) (k : Int) : Option DirEntry := tableGet c.hash DirEntry.key p.dir k

/-- `stall()` (R171). -/
def PredictorState.stall (p : PredictorState) : PredictorState := { p with stalled := true }

/-- The direction a certainty stands for: the boolean itself, or a counter of 2 or 3 (R178, R180, R184; log
entry 11). -/
def Certainty.taken : Certainty → Bool
  | .outcome b => b
  | .counter n => decide (2 ≤ n.val)

/-- The two-bit counter after an outcome: toward 3 or toward 0, saturating (R181). -/
def bumpCounter (n : Fin 4) (taken : Bool) : Fin 4 :=
  match n, taken with
  | 0, true => 1
  | 1, true => 2
  | 2, true => 3
  | 3, true => 3
  | 0, false => 0
  | 1, false => 0
  | 2, false => 1
  | 3, false => 2

/-- The counter an absent entry is seeded with (R181). -/
def seedCounter (taken : Bool) : Fin 4 := if taken then 2 else 1

/-- The TwoBit certainty after an outcome: seeded when absent, else bumped (R181). An entry of the other kind, which no
TwoBit core ever holds, counts as absent (log entry 11). -/
def nextCounter (d : Option DirEntry) (taken : Bool) : Fin 4 :=
  match d with
  | some ⟨_, .counter n⟩ => bumpCounter n taken
  | some ⟨_, .outcome _⟩ => seedCounter taken
  | none => seedCounter taken

/-! ### gshare's history (R182 to R185) -/

/-- `toInt(H)`: the binary number of the history, the oldest entry most significant (R183). -/
def historyInt (h : List Bool) : Int := h.foldl (fun n b => 2 * n + (if b then 1 else 0)) 0

/-- Exclusive-or of two's-complement integers (R13, R186). -/
def xorInt : Int → Int → Int
  | .ofNat a, .ofNat b => .ofNat (a ^^^ b)
  | .ofNat a, .negSucc b => .negSucc (a ^^^ b)
  | .negSucc a, .ofNat b => .negSucc (a ^^^ b)
  | .negSucc a, .negSucc b => .ofNat (a ^^^ b)

/-- The reconstructed non-speculative history: the GHR with its tail replaced by the OBQ's entries (R185). -/
def confirmedHistory (p : PredictorState) : List Bool := p.ghr.take (p.ghr.length - p.obq.length) ++ p.obq

/-- The push of a speculative prediction: the evicted GHR head into the OBQ, the prediction into the GHR tail (R138,
R184; log entry 16). -/
def pushPrediction (c : Config) (p : PredictorState) (taken : Bool) : Result PredictorState :=
  andThen (circGet p.ghr 0) fun evicted =>
    andThen (circAdd c.obqCapacity p.obq evicted) fun obq =>
      .next { p with obq := obq, ghr := circRemove p.ghr ++ [taken] }

/-! ### predict (R172 to R184) -/

/-- AlwaysNotTaken (R174). -/
def predictNotTaken (p : PredictorState) (pc : Int) : Result (Int × PredictorState) := .next (pc + 1, p)

/-- AlwaysTaken (R176). -/
def predictTaken (c : Config) (p : PredictorState) (pc : Int) : Result (Int × PredictorState) :=
  match btbGet c p pc with
  | none => .next (pc + 1, p)
  | some e => .next (e.destination, p)

/-- OneBit and TwoBit: the BTB destination when the direction buffer says taken (R178, R180). -/
def predictDirection (c : Config) (p : PredictorState) (pc : Int) : Result (Int × PredictorState) :=
  match btbGet c p pc with
  | none => .next (pc + 1, p)
  | some e =>
    match dirGet c p pc with
    | none => .next (pc + 1, p)
    | some d => .next (if d.certainty.taken then e.destination else pc + 1, p)

/-- The direction gshare predicts at an index: the entry's, or taken on a miss (R184). -/
def gshareTaken (c : Config) (p : PredictorState) (pc : Int) : Bool :=
  match dirGet c p (xorInt pc (historyInt p.ghr)) with
  | none => true
  | some d => d.certainty.taken

/-- GShare (R184). -/
def predictGshare (c : Config) (p : PredictorState) (pc : Int) : Result (Int × PredictorState) :=
  match btbGet c p pc with
  | none => .next (pc + 1, p)
  | some e =>
    andThen (pushPrediction c p (gshareTaken c p pc)) fun p' =>
      .next (if gshareTaken c p pc then e.destination else pc + 1, p')

/-- The un-stalled `predict` of the variant (R173). -/
def predictVariant (c : Config) (p : PredictorState) (pc : Int) : Result (Int × PredictorState) :=
  match c.predictor with
  | .alwaysNotTaken => predictNotTaken p pc
  | .alwaysTaken => predictTaken c p pc
  | .oneBit => predictDirection c p pc
  | .twoBit => predictDirection c p pc
  | .gshare => predictGshare c p pc

/-- `predict(pc)`: a stalled predictor passes its input through once, touching nothing else (R172). -/
def predict (c : Config) (p : PredictorState) (pc : Int) : Result (Int × PredictorState) :=
  if p.stalled then .next (pc, { p with stalled := false }) else predictVariant c p pc

/-! ### update (R175 to R186) -/

/-- The BTB entry of a source is added if absent and never rewritten (R177, R179, R181). -/
def btbInsert (c : Config) (p : PredictorState) (source destination : Int) : Result PredictorState :=
  match btbGet c p source with
  | some _ => .next p
  | none => andThen (tableAdd c.hash BtbEntry.key p.btb ⟨source, destination⟩) fun t => .next { p with btb := t }

/-- The BTB entry of a source is added if absent, else rewritten (R186). -/
def btbPut (c : Config) (p : PredictorState) (source destination : Int) : Result PredictorState :=
  match btbGet c p source with
  | some _ => andThen (tableUpdate c.hash BtbEntry.key p.btb ⟨source, destination⟩) fun t => .next { p with btb := t }
  | none => andThen (tableAdd c.hash BtbEntry.key p.btb ⟨source, destination⟩) fun t => .next { p with btb := t }

/-- The direction entry of a key is added if absent, else rewritten (R179, R181, R186). -/
def dirPut (c : Config) (p : PredictorState) (key : Int) (cert : Certainty) : Result PredictorState :=
  match dirGet c p key with
  | some _ => andThen (tableUpdate c.hash DirEntry.key p.dir ⟨key, cert⟩) fun t => .next { p with dir := t }
  | none => andThen (tableAdd c.hash DirEntry.key p.dir ⟨key, cert⟩) fun t => .next { p with dir := t }

/-- AlwaysNotTaken: a no-op (R175). -/
def updateNotTaken (p : PredictorState) : Result PredictorState := .next p

/-- AlwaysTaken (R177). -/
def updateTaken (c : Config) (p : PredictorState) (source destination : Int) : Result PredictorState :=
  btbInsert c p source destination

/-- OneBit (R179). -/
def updateOneBit (c : Config) (p : PredictorState) (source destination : Int) (taken : Bool) : Result PredictorState :=
  andThen (btbInsert c p source destination) fun p' => dirPut c p' source (.outcome taken)

/-- TwoBit (R181). -/
def updateTwoBit (c : Config) (p : PredictorState) (source destination : Int) (taken : Bool) : Result PredictorState :=
  andThen (btbInsert c p source destination) fun p' =>
    dirPut c p' source (.counter (nextCounter (dirGet c p' source) taken))

/-- gshare's last part: a confirmed prediction pops the OBQ's head, anything else resets the history (R186). The history
`h` is the one the call began with. -/
def settleHistory (p : PredictorState) (h : List Bool) (taken : Bool) : PredictorState :=
  if p.obq.head? = some taken then { p with obq := circRemove p.obq }
  else { p with ghr := h.tail ++ [taken], obq := [] }

/-- GShare (R186). -/
def updateGshare (c : Config) (p : PredictorState) (source destination : Int) (taken : Bool) : Result PredictorState :=
  andThen (dirPut c p (xorInt (historyInt (confirmedHistory p)) source) (.outcome taken)) fun p1 =>
    andThen (btbPut c p1 source destination) fun p2 => .next (settleHistory p2 (confirmedHistory p) taken)

/-- `update(source, destination, outcome)` of the variant (R170, R173). -/
def update (c : Config) (p : PredictorState) (source destination : Int) (taken : Bool) : Result PredictorState :=
  match c.predictor with
  | .alwaysNotTaken => updateNotTaken p
  | .alwaysTaken => updateTaken c p source destination
  | .oneBit => updateOneBit c p source destination taken
  | .twoBit => updateTwoBit c p source destination taken
  | .gshare => updateGshare c p source destination taken

end Sys2Proof.Machine
end

