-- ==== Sys2Proof/Machine/MicroJump.lean ====
section
/-! DEFINITION. The JMP micro-op: it resolves a branch, recovers from a misprediction and trains the predictor
(44_microops.md R267, R268). -/

namespace Sys2Proof.Machine

/-- The actual next instruction: the destination if the condition held, else the one after the branch (R267). -/
def branchTarget (loc dest : Int) (met : Bool) : Int := if met then dest else loc + 1

/-- The record of the resolution, and on a mismatch the Flush and the redirect (R267). -/
def settleBranch (s : State) (loc dest : Int) (met succ : Bool) : State :=
  if met = succ then s.recordPredicted else s.redirect (branchTarget loc dest met)

/-- The predictor after its update is stalled on a mismatch, and on a match when `STALL_AFTER_MATCH` (R267, C2). -/
def stallAfter (c : Config) (met succ : Bool) (p : PredictorState) : PredictorState :=
  if met ≠ succ ∨ c.stallAfterMatch = true then p.stall else p

/-- The resolution of a branch issued at `loc` with taken target `dest`, whose outcome is `met` and whose successor was
tagged `succ` (R267). -/
def resolveBranch (s : State) (loc dest : Int) (met succ : Bool) : Result State :=
  andThen (update s.config s.predictor loc dest met) fun p =>
    .next ((settleBranch s loc dest met succ).setPredictor (stallAfter s.config met succ p))

/-- JMP (R267): the location from the reorder head, the tag from the entry one slot behind it. -/
def execMicroJmp (c : Cond) (_w : Width) (s : State) : Result State :=
  andThen (circGet s.rob 0) fun r =>
    andThen (circGet s.rob 1) fun next =>
      resolveBranch s r.issuing (sint64 s.accWord) (condHolds c s.flags) next.speculative

end Sys2Proof.Machine
end

