-- ==== Sys2Proof/Machine/MicroSystem.lean ====
section
/-! DEFINITION. The SYSCALL micro-op (44_microops.md R269 to R272). -/

namespace Sys2Proof.Machine

/-- The syscall number: the accumulator's low byte (R269). -/
def State.syscallNumber (s : State) : Nat := (s.accWord.setWidth 8).toNat

/-- SYSCALL 1: the contents of `len` cells from the address on go to the output; a length of 0 or less writes nothing
(R270). -/
def syscallWrite (s : State) : Result State :=
  andThen (readCells s (sint64 (s.reg s.config.sysWriteLenReg)).toNat (sint64 (s.reg s.config.sysWriteBufReg)))
    fun cs => .next (s.emit cs)

/-- SYSCALL: 1 writes, 60 halts, any other number is refused (R269 to R272). -/
def execMicroSyscall (_w : Width) (s : State) : Result State :=
  if s.syscallNumber = 1 then syscallWrite s
  else if s.syscallNumber = 60 then .next s.halt
  else .refused (.unknownSyscall s.syscallNumber)

end Sys2Proof.Machine
end

