-- ==== Sys2Proof/Machine/Dispatch.lean ====
section
/-! DEFINITION. One arm per instruction of the opcode table. -/

namespace Sys2Proof.Machine

def exec (i : Instr) (s : State) : Host.Outcome State Fault Refusal :=
  match i with
  -- the thirteen macro-instructions, as Decode runs them (R226, R301 to R313)
  | .mov a b => Sys2Proof.Machine.execMov a b s
  | .jmp a => Sys2Proof.Machine.execJmp a s
  | .je a => Sys2Proof.Machine.execJe a s
  | .jne a => Sys2Proof.Machine.execJne a s
  | .jg a => Sys2Proof.Machine.execJg a s
  | .jl a => Sys2Proof.Machine.execJl a s
  | .jge a => Sys2Proof.Machine.execJge a s
  | .jle a => Sys2Proof.Machine.execJle a s
  | .inc a => Sys2Proof.Machine.execInc a s
  | .dec a => Sys2Proof.Machine.execDec a s
  | .cmp a b => Sys2Proof.Machine.execCmp a b s
  | .syscall => Sys2Proof.Machine.execSyscall s
  | .noop => Sys2Proof.Machine.execNoop s
  -- the eight micro-ops, as Execute dispatches them (R260, R262 to R273)
  | .microLoad a w => Sys2Proof.Machine.execMicroLoad a w s
  | .microSto a w => Sys2Proof.Machine.execMicroSto a w s
  | .microAdd a w => Sys2Proof.Machine.execMicroAdd a w s
  | .microSub a w => Sys2Proof.Machine.execMicroSub a w s
  | .microCmp a w => Sys2Proof.Machine.execMicroCmp a w s
  | .microJmp c w => Sys2Proof.Machine.execMicroJmp c w s
  | .microSyscall w => Sys2Proof.Machine.execMicroSyscall w s
  | .microNoop w => Sys2Proof.Machine.execMicroNoop w s

end Sys2Proof.Machine
end

