-- ==== Sys2Proof/WellFormed.lean ====
section
/-! DEFINITION. Which instruction terms a token string or a pipeline-buffer slot can stand for: immediates within the
signed 64-bit range (R94 test 3, R96), Memory operands that are one bracketed token with no white space and no comma
(R91, R94 test 1, R97), and registers of `GPR_NAMES` only (R94 test 2). Operand counts and the
ban on an Immediate destination (R98) are in the types. -/

namespace Sys2Proof

/-- A letter. -/
def isLetter (c : Char) : Bool := (decide ('a' ≤ c) && decide (c ≤ 'z')) || (decide ('A' ≤ c) && decide (c ≤ 'Z'))

/-- Every register name begins with a letter and is of letters and digits only, so that a register token is one token of
an instruction (R91), has no other operand form (R94) and is one operand of an address expression (R152); DEDUCED, log
entry 3. -/
def gprNamesLexical (names : List Gpr) : Bool :=
  names.all (fun n => n.head?.any isLetter && n.all (fun c => isLetter c || isDecimal c))

/-- The text of a Memory operand: one bracketed token, so no white space in it, and no comma (R91, R97). -/
def memTextWf (t : Token) : Bool := isBracketed t && t.all (fun c => !isBlank c) && !hasComma t

/-- An operand that some token stands for. -/
def Operand.wf (names : List Gpr) : Operand → Bool
  | .reg t => names.contains t.reg
  | .mem e => memTextWf e
  | .imm v => inInt64 v

/-- A destination that some token stands for. -/
def Dest.wf (names : List Gpr) : Dest → Bool
  | .reg t => names.contains t.reg
  | .mem e => memTextWf e

/-- A well-formed instruction of the opcode table, on a core with these register names. -/
def Instr.wf (names : List Gpr) : Instr → Bool
  | .mov a b => a.wf names && b.wf names
  | .jmp a => a.wf names
  | .je a => a.wf names
  | .jne a => a.wf names
  | .jg a => a.wf names
  | .jl a => a.wf names
  | .jge a => a.wf names
  | .jle a => a.wf names
  | .inc a => a.wf names
  | .dec a => a.wf names
  | .cmp a b => a.wf names && b.wf names
  | .syscall => true
  | .noop => true
  | .microLoad a _ => a.wf names
  | .microSto a _ => a.wf names
  | .microAdd a _ => a.wf names
  | .microSub a _ => a.wf names
  | .microCmp a _ => a.wf names
  | .microJmp _ _ => true
  | .microSyscall _ => true
  | .microNoop _ => true

end Sys2Proof
end

