-- ==== Sys2Proof/Machine/Pipeline.lean ====
section
/-! DEFINITION. The three pipeline stages and the cycle (43_pipeline.md R221 to R230, 44_microops.md R260), and the
placing of one instruction where a stage takes its next one. -/

namespace Sys2Proof.Machine

/-! ### Execute (R260) -/

/-- The paired removal of both heads, a no-op on buffers a Flush has emptied (R274). -/
def State.popHeads (s : State) : State := { s with pb := circRemove s.pb, rob := circRemove s.rob }

/-- `lastExecuted <- u` (R260). -/
def State.traceExecuted (s : State) (u : MicroOp) : State := { s with lastExecuted := some u }

/-- `Execute()`: the head of the pipeline buffer, dispatched and removed; nothing when the buffer is empty (R260, D45). -/
def executeStage (s : State) : Result State :=
  if s.pb = [] then .next s
  else
    andThen (circGet s.pb 0) fun u =>
      andThen (circGet s.rob 0) fun _ =>
        andThen (exec u.toInstr (s.traceExecuted u)) fun s' => .next s'.popHeads

/-! ### Decode (R226) -/

/-- The fatal error a decoding failure is (R331). -/
def faultOfDecode : DecodeError → Fault
  | .invalidOpcode t => .invalidOpcode t
  | .malformedInstruction t => .malformedInstruction t

/-- `Decode()`: the token in `cir`, read and issued (R226). -/
def decodeStage (s : State) : Result State :=
  match s.cir with
  | none => .refused .emptyInstructionRegister
  | some f =>
    match decode s.config.gprNames f.token with
    | .error e => .fault (faultOfDecode e)
    | .ok i => exec i s

/-! ### Fetch (R223) -/

/-- The token `noop`, synthesized at and beyond dataStart (R105, R225). -/
def noopToken : Token := ['n', 'o', 'o', 'p']

/-- The token at the predicted address: read from memory below dataStart, synthesized elsewhere (R223, R225). -/
def fetchToken (s : State) (predicted : Int) : Result Token :=
  if s.ds ≤ predicted then .next noopToken else readToken s predicted

/-- Fetch's writes: the predicted address to `rip` and `mar`, the token to `mbr`, `cir` with its marker and the trace,
Decode un-stalled (R223, R224). -/
def latchFetch (s : State) (pc predicted : Int) (tok : Token) : State :=
  { s with
    rip := toWord predicted
    mar := toWord predicted
    mbr := some tok
    cir := some ⟨tok, decide (predicted ≠ pc + 1)⟩
    lastFetched := some tok
    stall := ⟨s.stall.fetch, false, s.stall.execute⟩ }

/-- `Fetch()` (R223). -/
def fetchStage (s : State) : Result State :=
  andThen (predict s.config s.predictor s.ripb) fun r =>
    andThen (fetchToken s r.1) fun tok => .next (latchFetch (s.setPredictor r.2) s.ripb r.1 tok)

/-! ### The cycle (R221) -/

/-- Execute's turn: skipped while its flag is set (R221, R222). -/
def executeTurn (s : State) : Result State := if s.stall.execute then .next s else executeStage s

/-- Decode's turn (R221, R222). -/
def decodeTurn (s : State) : Result State := if s.stall.decode then .next s else decodeStage s

/-- Fetch's turn: a skipped Fetch clears its own flag (R221, R222). -/
def fetchTurn (s : State) : Result State := if s.stall.fetch then .next (s.setStallFetch false) else fetchStage s

/-- `Cycle()`: the cycle is counted, then Execute, Decode, Fetch, each seeing the one before it (R221). -/
def cycle (s : State) : Result State :=
  andThen (executeTurn s.tick) fun s1 => andThen (decodeTurn s1) fun s2 => fetchTurn s2

/-- One turn of `Run`'s loop: a cycle while Running; a Halted machine stays as it is (R220, R231; log entry 8). -/
def runOnce (s : State) : Result State := if s.running then cycle s else .next s

/-! ### Placing an instruction (log entry 7) -/

/-- A token placed in `cir`, where Decode takes its next instruction, with both buffers empty so that it has room. -/
def State.placeToken (s : State) (t : Token) : State :=
  { s with
    running := true
    cir := some ⟨t, false⟩
    rob := []
    pb := []
    stall := ⟨s.stall.fetch, false, true⟩ }

/-- A micro-op placed at the head of both buffers, where Execute takes its next one, with a NOOP behind it for the JMP's
look at its successor (R267). -/
def State.placeMicroOp (s : State) (u : MicroOp) : State :=
  { s with
    running := true
    rob := [robEntry (sint64 s.rip) false u, robEntry (sint64 s.rip) false (.noop .eight)]
    pb := [u, .noop .eight]
    stall := ⟨s.stall.fetch, true, false⟩ }

/-- A text placed where the stage that runs it takes its next instruction. -/
def State.placeText (s : State) (t : Token) : State :=
  match decode s.config.gprNames t with
  | .ok _ => s.placeToken t
  | .error _ =>
    match decodeSlot s.config.gprNames t (slotWidth s.config.gprNames t) with
    | some u => s.placeMicroOp u
    | none => s.placeToken t

end Sys2Proof.Machine
end

