-- ==== Sys2Proof/Machine/Step.lean ====
section
/-! DEFINITION. The step of the machine, one turn of Run's loop (43_pipeline.md R220, R221), and the host's placing of an
instruction (log entry 7). -/

namespace Sys2Proof.Machine

/-- One step is one cycle (R8, R9, R221). -/
def step (s : State) : Host.Outcome State Fault Refusal := runOnce s

/-- The state with the instruction of the bits `w` placed where the very next step runs it (log entry 7). -/
def State.withFetchWord (s : State) (nbits w : Nat) : State := s.placeText (textOfBits nbits w)

end Sys2Proof.Machine
end

