-- ==== Sys2Proof/Machine/Boot.lean ====
section
/-! DEFINITION. The executable and its load: the start of `Run`, which is the machine's reset (20_memory.md R62, R63;
10_state.md R45; 43_pipeline.md R220; 70_reset_and_hazards.md R370), and the run's result (R35). -/

namespace Sys2Proof.Machine

/-- The executable: an ordered list of integers and token strings (R11, R62). -/
abbrev Executable := List Content

/-- The element is a string. -/
def Content.isToken : Content → Bool
  | .token _ => true
  | .number _ => false

/-- The element is an integer of the signed 64-bit range. -/
def Content.isInt64 : Content → Bool
  | .number v => inInt64 v
  | .token _ => false

/-- Header, text and data of an executable are what R63 asks for, and it fits the memory. -/
def executableWf (c : Config) (exe : Executable) : Bool :=
  match exe with
  | .number textStart :: .number dataStart :: rest =>
    decide (2 ≤ textStart) && decide (textStart ≤ dataStart) && decide (dataStart ≤ exe.length) &&
    (rest.take (textStart.toNat - 2)).all (fun x => x.isToken || x.isInt64) &&
    ((exe.take dataStart.toNat).drop textStart.toNat).all Content.isToken &&
    (exe.drop dataStart.toNat).all Content.isInt64 &&
    decide (exe.length ≤ c.memSize)
  | _ => false

/-- The executable verbatim from an address on: one cell an element (R62). -/
def loadFrom : Nat → Executable → Memory
  | _, [] => []
  | a, x :: xs => (a, x) :: loadFrom (a + 1) xs

/-- The state after `Run` has loaded a well-formed executable and seeded the registers (R45). -/
def State.loaded (c : Config) (textStart dataStart : Int) (exe : Executable) : State :=
  { State.unloaded c with
    rip := toWord textStart
    cs := textStart
    ds := dataStart
    mem := loadFrom 0 exe }

/-- The reset: the start of `Run(executable)`; an executable that is not well formed is refused (R63, R220, R370). -/
def boot (c : Config) (exe : Executable) : Result State :=
  match exe with
  | .number textStart :: .number dataStart :: _ =>
    if executableWf c exe then .next (State.loaded c textStart dataStart exe) else .refused .malformedExecutable
  | _ => .refused .malformedExecutable

/-- What `Run` returns: the two lists of cycle numbers (R35, R220). -/
structure RunResult where
  predicted : List Nat
  mispredicted : List Nat
  deriving DecidableEq, Repr

/-- The run's result, once the machine is Halted (R220, R231). -/
def State.runResult (s : State) : Option RunResult :=
  if s.running then none else some ⟨s.predicted, s.mispredicted⟩

end Sys2Proof.Machine
end

