-- ==== Sys2Proof/Machine/Debug.lean ====
section
/-! DEFINITION. The debug and trace boundary: what the core exposes after each cycle, read-only (60_exceptions.md R349),
and what an aborted run reports (R338). -/

namespace Sys2Proof.Machine

/-- A circular buffer as the debug boundary shows it: its items in order and its two indices (R349). -/
structure BufferView (α : Type) where
  items : List α
  front : Int
  rear : Int
  deriving DecidableEq, Repr

/-- Everything the core exposes after a cycle (R349). -/
structure Exposure where
  lastFetched : Option Token
  lastDecoded : List MicroOp
  lastExecuted : Option MicroOp
  rob : BufferView RobEntry
  pb : BufferView MicroOp
  gpr : RegFile
  rip : Word
  mar : Word
  mbr : Option Token
  cir : Option Fetched
  segments : List (Token × Int)
  flags : Flags
  stall : Stalls
  running : Bool
  cycle : Nat
  mem : Memory
  deriving DecidableEq, Repr

/-- The exposure of a state: the general and the segment registers with their names (R7); the index values are unspecified
(R120, U6). -/
def State.expose (s : State) : Exposure where
  lastFetched := s.lastFetched
  lastDecoded := s.lastDecoded
  lastExecuted := s.lastExecuted
  rob := ⟨s.rob, Config.frontIndex 0 s.rob.length s.cycle, Config.rearIndex 0 s.rob.length s.cycle⟩
  pb := ⟨s.pb, Config.frontIndex 1 s.pb.length s.cycle, Config.rearIndex 1 s.pb.length s.cycle⟩
  gpr := s.gpr
  rip := s.rip
  mar := s.mar
  mbr := s.mbr
  cir := s.cir
  segments := [(s.config.segTextReg, s.cs), (s.config.segDataReg, s.ds)]
  flags := s.flags
  stall := s.stall
  running := s.running
  cycle := s.cycle
  mem := s.mem

/-- What is reported when the step at a state aborts the run: the error with what it carries, and the number of the
cycle it was raised in (R338). -/
def abortReport (s : State) : Option (Fault × Nat) :=
  match step s with
  | .fault f => some (f, s.tick.cycleNumber)
  | .next _ => none
  | .refused _ => none

end Sys2Proof.Machine
end

