-- ==== Sys2Proof/Safety.lean ====
section
/-! DEFINITION. The terms the statements use: what an instruction leaves unchanged, the invariants of the machine, and
the reference readings some operations are compared with. -/

namespace Sys2Proof.Machine

/-! ### Frames -/

/-- The registers there are, and what every one of them reads as, are as before. -/
def SameRegs (s t : State) : Prop := t.gpr.names = s.gpr.names ∧ ∀ g, t.reg g = s.reg g

/-- The registers there are, `g` being one, and what every one but `g` reads as, are as before. -/
def SameRegsBut (g : Gpr) (s t : State) : Prop :=
  (g ∈ s.gpr.names → t.gpr.names = s.gpr.names) ∧ ∀ g', g' ≠ g → t.reg g' = s.reg g'

/-- Every memory cell reads as before. -/
def SameCells (s t : State) : Prop := ∀ a, t.mem.read a = s.mem.read a

/-- Every memory cell but one reads as before. -/
def SameCellsBut (a : Nat) (s t : State) : Prop := ∀ b, b ≠ a → t.mem.read b = s.mem.read b

/-- Both result lists and the output are as before. -/
def SameResults (s t : State) : Prop :=
  t.predicted = s.predicted ∧ t.mispredicted = s.mispredicted ∧ t.output = s.output

/-- The parameters, the segment registers, `running`, `cycle` and the three trace registers are as before. -/
def SameStanding (s t : State) : Prop :=
  t.config = s.config ∧ t.cs = s.cs ∧ t.ds = s.ds ∧ t.running = s.running ∧ t.cycle = s.cycle ∧
  t.lastFetched = s.lastFetched ∧ t.lastDecoded = s.lastDecoded ∧ t.lastExecuted = s.lastExecuted

/-- The pipeline registers, the stall flags and both buffers are as before. -/
def SamePipeline (s t : State) : Prop :=
  t.rip = s.rip ∧ t.mar = s.mar ∧ t.mbr = s.mbr ∧ t.cir = s.cir ∧ t.stall = s.stall ∧ t.rob = s.rob ∧ t.pb = s.pb

/-- All of the state but the general registers, the flags and memory is as before. -/
def SameCore (s t : State) : Prop :=
  SameStanding s t ∧ SamePipeline s t ∧ SameResults s t ∧ t.predictor = s.predictor

/-- What a Flush leaves (R230): both buffers and `mar`, `mbr`, `cir` empty, the stage stall flags set, Fetch's among
them unless `FLUSH_STALLS_FETCH` is false. -/
def Flushed (s t : State) : Prop :=
  t.rob = [] ∧ t.pb = [] ∧ t.mar = 0 ∧ t.mbr = none ∧ t.cir = none ∧ t.stall.decode = true ∧ t.stall.execute = true ∧
  t.stall.fetch = (s.config.flushStallsFetch || s.stall.fetch)

/-- Where the first operation stops, the second stops in the same way: the same fatal error, the same refusal. -/
def StopsAlike {α β : Type} (x : Result α) (y : Result β) : Prop :=
  (∀ f, x = .fault f → y = .fault f) ∧ ∀ r, x = .refused r → y = .refused r

/-! ### Running the micro-ops of a group -/

/-- Execute, `n` times in a row (R300: the micro-ops of a group one after the other). -/
def executeN : Nat → State → Result State
  | 0, s => .next s
  | n + 1, s => andThen (executeStage s) (executeN n)

/-- The group is at the head of the pipeline buffer, with `rest` behind it, and each of its micro-ops has its reorder
entry (R40). -/
def GroupAtHead (s : State) (g rest : List MicroOp) : Prop := s.pb = g ++ rest ∧ s.rob.length = s.pb.length

/-- After a group has executed with nothing flushed: its slots are gone and only the trace register of Execute, beside
what the group itself writes, has changed. -/
def GroupRetired (s t : State) (g rest : List MicroOp) : Prop :=
  t.pb = rest ∧ t.rob = s.rob.drop g.length ∧ t.config = s.config ∧ t.rip = s.rip ∧ t.mar = s.mar ∧ t.mbr = s.mbr ∧
  t.cir = s.cir ∧ t.cs = s.cs ∧ t.ds = s.ds ∧ t.stall = s.stall ∧ t.running = s.running ∧ t.cycle = s.cycle ∧
  t.lastFetched = s.lastFetched ∧ t.lastDecoded = s.lastDecoded ∧ t.lastExecuted = g.getLast? ∧ SameResults s t ∧
  t.predictor = s.predictor

/-! ### Invariants -/

/-- `rob.size() = pb.size()`, and entries at one offset are of one opcode (R40, R232). -/
def LockStep (s : State) : Prop := s.rob.map RobEntry.opcode = s.pb.map MicroOp.opcode

/-- Neither buffer holds more than its capacity (R120). -/
def BuffersFit (s : State) : Prop := s.rob.length ≤ s.config.robCapacity ∧ s.pb.length ≤ s.config.pbCapacity

/-- Decode is un-stalled only with an instruction in `cir` (R226). -/
def DecodeReady (s : State) : Prop := s.stall.decode = false → s.cir ≠ none

/-- While Execute is un-stalled there is a micro-op to execute, and Decode is un-stalled too (R260). -/
def NeverIdle (s : State) : Prop := s.stall.execute = false → s.pb ≠ [] ∧ s.stall.decode = false

/-- A JMP that is the youngest micro-op in flight has an older one ahead of it, so Decode has a cycle left to insert its
successor (R379). -/
def SuccessorDue (s : State) : Prop :=
  s.pb.getLast?.map MicroOp.opcode = some .JMP → 2 ≤ s.pb.length ∧ s.stall.decode = false

/-- The register file has exactly one register per name of `GPR_NAMES` (R21). -/
def RegistersFit (s : State) : Prop := s.gpr.names = s.config.gprNames

/-- Every micro-op in flight names only registers of `GPR_NAMES` and Numbers of 64 bits (R47, R94). -/
def OperandsFit (s : State) : Prop := ∀ u ∈ s.pb, u.toInstr.wf s.config.gprNames = true

/-- The invariant of the pipeline between cycles. -/
def PipelineInv (s : State) : Prop :=
  s.config.wf = true ∧ LockStep s ∧ BuffersFit s ∧ DecodeReady s ∧ NeverIdle s ∧ SuccessorDue s ∧ RegistersFit s ∧
  OperandsFit s

/-- The GHR has exactly `GHR_LENGTH` entries and the OBQ at most `OBQ_CAPACITY` (R41, R187). -/
def HistoryFits (c : Config) (p : PredictorState) : Prop :=
  p.ghr.length = c.ghrLength ∧ p.obq.length ≤ c.obqCapacity

/-- Every entry of a hash table is the one its own key's lookup finds, so no two entries report the same key (R133). -/
def TableSound {α : Type} (h : HashFn) (keyOf : α → Int) (slots : List (Option α)) : Prop :=
  ∀ j x, slotAt slots j = some x → findSlot keyOf slots (keyOf x) (probes h slots.length (keyOf x)) = some j

/-- Both tables keep their capacity and are sound (R127, R133). -/
def TablesFit (c : Config) (p : PredictorState) : Prop :=
  p.btb.length = c.btbCapacity ∧ p.dir.length = c.dirCapacity ∧
  TableSound c.hash BtbEntry.key p.btb ∧ TableSound c.hash DirEntry.key p.dir

/-- A certainty is of the kind the variant keeps; variants without a direction buffer keep none (R41). -/
def CertaintyFits (k : PredictorKind) (v : Certainty) : Prop :=
  match k, v with
  | .oneBit, .outcome _ => True
  | .gshare, .outcome _ => True
  | .twoBit, .counter _ => True
  | _, _ => False

/-- The invariant of the predictor. -/
def PredictorInv (s : State) : Prop :=
  s.config.wf = true ∧ HistoryFits s.config s.predictor ∧ TablesFit s.config s.predictor ∧
  ∀ j e, slotAt s.predictor.dir j = some e → CertaintyFits s.config.predictor e.certainty

/-- Memory is in canonical form, every written cell is one of the `MEM_SIZE`, and every Number is a signed 64-bit
integer (R60). -/
def MemoryInv (s : State) : Prop :=
  s.mem.wf ∧ ∀ a c, s.mem.read a = some c → a < s.config.memSize ∧ ∀ v, c = .number v → inInt64 v = true

/-- Each result list is ascending, no number is in both, and none is of a cycle to come (R35). -/
def ResultsInv (s : State) : Prop :=
  s.predicted.Pairwise (· < ·) ∧ s.mispredicted.Pairwise (· < ·) ∧ (∀ n ∈ s.predicted, n ∉ s.mispredicted) ∧
  (∀ n ∈ s.predicted ++ s.mispredicted, n < s.cycle + s.config.cycleBase)

/-- SF and ZF are not both set (R268). -/
def FlagsInv (s : State) : Prop := ¬(s.flags.sf = true ∧ s.flags.zf = true)

/-! ### What nothing reads -/

/-- The state with everything cleared that no rule of the machine reads: `mar`, `mbr` (R28, R29), PF (R31), `cs` (R37) and
the trace registers (R43). -/
def State.forget (s : State) : State :=
  { s with
    mar := 0
    mbr := none
    flags := ⟨s.flags.sf, s.flags.zf, false⟩
    cs := 0
    lastFetched := none
    lastDecoded := []
    lastExecuted := none }

/-- An outcome with its state, if it has one, so cleared. -/
def forgetResult (x : Result State) : Result State := andThen x fun s => .next s.forget

/-! ### Reference readings -/

/-- The number of operands of each mnemonic (R98). -/
def operandCount : Mnemonic → Nat
  | .mov => 2
  | .jmp => 1
  | .je => 1
  | .jne => 1
  | .jg => 1
  | .jl => 1
  | .jge => 1
  | .jle => 1
  | .inc => 1
  | .dec => 1
  | .cmp => 2
  | .syscall => 0
  | .noop => 0

/-- The mnemonics whose first operand is a destination (R98). -/
def writesFirst : List Mnemonic := [.mov, .inc, .dec]

/-- An instruction as a token string spells it: its mnemonic and its operands in order (R92, R98); no token string spells
a micro-op (R100). -/
def spelledAs : Instr → Option (Mnemonic × List Operand)
  | .mov a b => some (.mov, [a.toOperand, b])
  | .jmp a => some (.jmp, [a])
  | .je a => some (.je, [a])
  | .jne a => some (.jne, [a])
  | .jg a => some (.jg, [a])
  | .jl a => some (.jl, [a])
  | .jge a => some (.jge, [a])
  | .jle a => some (.jle, [a])
  | .inc a => some (.inc, [a.toOperand])
  | .dec a => some (.dec, [a.toOperand])
  | .cmp a b => some (.cmp, [a, b])
  | .syscall => some (.syscall, [])
  | .noop => some (.noop, [])
  | .microLoad _ _ => none
  | .microSto _ _ => none
  | .microAdd _ _ => none
  | .microSub _ _ => none
  | .microCmp _ _ => none
  | .microJmp _ _ => none
  | .microSyscall _ => none
  | .microNoop _ => none

/-- The width in bytes of an operand's suffix, 8 where it has none to show (R99). -/
def suffixBytes : Operand → Nat
  | .reg t => t.suffix.view.bytes
  | .mem _ => 8
  | .imm _ => 8

/-- The value of `term op term op …`, read left to right with `*` and `/` before `+` and `-`: `sum` is the finished part,
`o` the sign of the product `prod` still being built. -/
def infixFrom (expr : Token) (sum : Int) (o : AguOp) (prod : Int) : List (AguOp × Int) → Result Int
  | [] => aguApply expr o sum prod
  | (.add, v) :: r => andThen (aguApply expr o sum prod) fun sum' => infixFrom expr sum' .add v r
  | (.sub, v) :: r => andThen (aguApply expr o sum prod) fun sum' => infixFrom expr sum' .sub v r
  | (.mul, v) :: r => infixFrom expr sum o (prod * v) r
  | (.div, v) :: r => andThen (aguApply expr .div prod v) fun q => infixFrom expr sum o q r

/-- The infix value of a first term and the operator and term pairs after it. -/
def infixValue (expr : Token) (v : Int) (r : List (AguOp × Int)) : Result Int := infixFrom expr 0 .add v r

/-- The predictor after several outcomes of one branch. -/
def updateAll (c : Config) (source destination : Int) : List Bool → PredictorState → Result PredictorState
  | [], p => .next p
  | b :: bs, p => andThen (update c p source destination b) (updateAll c source destination bs)

end Sys2Proof.Machine
end

