-- ==== Sys2Proof/Certificates/Slice0/Obligations.lean ====
section
/-! DEFINITION. The statements for the provers. -/

open Sys2Proof Sys2Proof.Machine

/-! ### Reset and load -/

/-- R45: after `Run` has loaded a well-formed executable, every item of the state has the value of the reset table. -/
def Obligations.BootLeavesTheResetValues : Prop :=
  ∀ (c : Config) (ts ds : Int) (rest : Executable),
    executableWf c (.number ts :: .number ds :: rest) = true →
    ∃ s, boot c (.number ts :: .number ds :: rest) = .next s ∧
      s.config = c ∧ s.gpr.names = c.gprNames ∧ (∀ g, s.reg g = 0) ∧ s.cs = ts ∧ s.ds = ds ∧ s.rip = toWord ts ∧
      s.mar = 0 ∧ s.mbr = none ∧ s.cir = none ∧ s.flags = ⟨false, false, false⟩ ∧ s.stall = ⟨false, true, true⟩ ∧ s.running = true ∧
      s.cycle = 0 ∧ s.predicted = [] ∧ s.mispredicted = [] ∧ s.output = [] ∧ s.rob = [] ∧ s.pb = [] ∧
      s.predictor.stalled = true ∧ s.predictor.btb = List.replicate c.btbCapacity none ∧
      s.predictor.dir = List.replicate c.dirCapacity none ∧ s.predictor.ghr = List.replicate c.ghrLength false ∧
      s.predictor.obq = [] ∧ s.lastFetched = none ∧ s.lastDecoded = [] ∧ s.lastExecuted = none ∧
      ∀ i, s.mem.read i = (.number ts :: .number ds :: rest : Executable)[i]?

/-- R63: an executable is refused before the first cycle exactly when it is not of the form the rule gives: two integers
`textStart` and `dataStart` first, with `2 ≤ textStart ≤ dataStart ≤ L ≤ MEM_SIZE`, strings in the text, signed 64-bit
integers in the data, and either in between; any other is copied verbatim, cell i = element i, before the first cycle. -/
def Obligations.BootRefusesExactlyMalformedExecutables : Prop :=
  ∀ (c : Config) (exe : Executable),
    (boot c exe = .refused .malformedExecutable ↔
      ¬∃ ts ds : Int, exe[0]? = some (.number ts) ∧ exe[1]? = some (.number ds) ∧ 2 ≤ ts ∧ ts ≤ ds ∧
        ds ≤ exe.length ∧ exe.length ≤ c.memSize ∧
        ∀ (i : Nat) (x : Content), exe[i]? = some x → 2 ≤ i →
          ((i : Int) < ts → x.isToken = true ∨ x.isInt64 = true) ∧
          (ts ≤ i ∧ (i : Int) < ds → x.isToken = true) ∧ (ds ≤ i → x.isInt64 = true)) ∧
    (∀ r, boot c exe ≠ .fault r) ∧
    ∀ s, boot c exe = .next s → s.cycle = 0 ∧ ∀ i : Nat, s.mem.read i = exe[i]?

/-- R372, R45: the first cycle after the load only fetches: the token at textStart, for a textStart of one byte, enters
`mbr` and `cir` tagged speculative and un-stalls Decode, the predictor's stall is used up, and nothing else changes. -/
def Obligations.FirstCycleFetchesTheEntryPoint : Prop :=
  ∀ (c : Config) (exe : Executable) (s : State) (tok : Token),
    boot c exe = .next s → s.cs ≤ 255 →
    (s.cs < s.ds ∧ exe[s.cs.toNat]? = some (.token tok) ∨ s.ds ≤ s.cs ∧ tok = "noop".toList) →
    ∃ t, step s = .next t ∧ t.rip = s.rip ∧ t.mar = s.rip ∧ t.mbr = some tok ∧ t.cir = some ⟨tok, true⟩ ∧
      t.lastFetched = some tok ∧ t.stall = ⟨false, false, true⟩ ∧ t.cycle = 1 ∧ t.predictor.stalled = false ∧
      t.predictor.btb = s.predictor.btb ∧ t.predictor.dir = s.predictor.dir ∧ t.predictor.ghr = s.predictor.ghr ∧
      t.predictor.obq = s.predictor.obq ∧ SameRegs s t ∧ t.flags = s.flags ∧ SameCells s t ∧ SameResults s t ∧
      t.rob = [] ∧ t.pb = [] ∧ t.config = s.config ∧ t.cs = s.cs ∧ t.ds = s.ds ∧ t.running = true ∧
      t.lastDecoded = [] ∧ t.lastExecuted = none

/-! ### Decode and encode -/

/-- R92 and R107: the token strings of some instructions of every family, written out from their patterns, and the
instructions they stand for, on a core with the sixteen default register names. -/
def Obligations.SampleTokenStringsDecode : Prop :=
  decode Config.defaultNames "mov raxl [rcxb+1]".toList =
    .ok (.mov (.reg ⟨"rax".toList, .l⟩) (.mem "[rcxb+1]".toList)) ∧
  decode Config.defaultNames "mov [8] -7".toList = .ok (.mov (.mem "[8]".toList) (.imm (-7))) ∧
  decode Config.defaultNames "jne 3".toList = .ok (.jne (.imm 3)) ∧
  decode Config.defaultNames "jmp rbx".toList = .ok (.jmp (.reg ⟨"rbx".toList, .none⟩)) ∧
  decode Config.defaultNames "dec r15w".toList = .ok (.dec (.reg ⟨"r15".toList, .w⟩)) ∧
  decode Config.defaultNames "cmp 007 rdxq".toList = .ok (.cmp (.imm 7) (.reg ⟨"rdx".toList, .q⟩)) ∧
  decode Config.defaultNames "syscall".toList = .ok .syscall ∧
  decode Config.defaultNames "noop".toList = .ok .noop ∧
  decodeSlot Config.defaultNames "STO rbx".toList .one = some (.sto (.reg ⟨"rbx".toList, .none⟩) .one) ∧
  decodeSlot Config.defaultNames "JMP ge".toList .eight = some (.jmp .ge .eight)

/-- Decode and encode agree: the text of every well-formed macro-instruction, with every operand it admits, decodes to
that instruction (R91 to R98), whatever the register names within R7's constraint, their spelling in letters and digits
being the model's reading (log entry 3). -/
def Obligations.DecodeOfEncodeIsTheInstruction : Prop :=
  ∀ (names : List Gpr) (i : Instr), gprNamesWf names = true → gprNamesLexical names = true →
    i.wf names = true → i.toMicroOp = none → decode names (encode i) = .ok i

/-- Decode and encode agree for the micro-ops: the slot text of a well-formed one, with its width beside it, reads back
as that micro-op (R100, R108), whatever the register names as in the statement on decode and encode (log entry 3). -/
def Obligations.SlotTextReadsBackAsTheMicroOp : Prop :=
  ∀ (names : List Gpr) (u : MicroOp), gprNamesWf names = true → gprNamesLexical names = true →
    u.toInstr.wf names = true → decodeSlot names u.text u.width = some u

/-- R94, R98: whatever a token string decodes to is a well-formed macro-instruction: registers of `GPR_NAMES`, immediates
within 64 bits signed, Memory operands one bracketed token without a comma, a group to issue. R22: with names within
R7's constraint, a token names the view `r` exactly when it is the name of one of them followed by the suffix. R91, R94:
an operand token with a comma has no form; of the others a bracketed one is Memory, and else a register token Register,
and else one that spells an integer Immediate if it is within 64 bits signed and nothing if not. -/
def Obligations.DecodedInstructionsAreWellFormed : Prop :=
  (∀ (names : List Gpr) (t : Token) (i : Instr), decode names t = .ok i →
    i.wf names = true ∧ i.toMicroOp = none ∧ (groupOf i).isSome = true) ∧
  (∀ (names : List Gpr) (t : Token) (r : RegTok), gprNamesWf names = true →
    (regTokOf names t = some r ↔ r.reg ∈ names ∧ t = r.reg ++ r.suffix.text)) ∧
  (∀ (names : List Gpr) (t : Token),
    (',' ∈ t → operandOf names t = none) ∧
    (',' ∉ t →
      (isBracketed t = true → operandOf names t = some (.mem t)) ∧
      (isBracketed t = false →
        (∀ r, regTokOf names t = some r → operandOf names t = some (.reg r)) ∧
        (regTokOf names t = none →
          (∀ v, intOf t = some v → operandOf names t = if -2 ^ 63 ≤ v ∧ v < 2 ^ 63 then some (.imm v) else none) ∧
          (intOf t = none → operandOf names t = none)))))

/-- R91: for a token string that decodes to an instruction, white space around it, and more of it where some stands
already, does not change the instruction. -/
def Obligations.ExtraBlanksDoNotChangeTheInstruction : Prop :=
  (∀ (names : List Gpr) (pre t post : Token) (i : Instr), pre.all isBlank = true → post.all isBlank = true →
    decode names t = .ok i → decode names (pre ++ t ++ post) = .ok i) ∧
  (∀ (names : List Gpr) (t u : Token) (b b' : Char) (i : Instr), isBlank b = true → isBlank b' = true →
    decode names (t ++ b :: u) = .ok i → decode names (t ++ b :: b' :: u) = .ok i)

/-- R93: a token string whose first token is none of the thirteen mnemonics, or that has no token, raises InvalidOpcode
with the whole string, and Decode with it in `cir` stops there; one whose first token is a mnemonic does not. R94, R98:
one whose first token is a mnemonic and which has an operand token of no form, another number of operands than the
mnemonic takes, or an Immediate as the destination of `mov`, `inc` or `dec`, raises MalformedInstruction with the whole
string, and Decode with it in `cir` stops there. Every other one decodes, to the instruction of that mnemonic with those
classified operands, and only so. R100: the text of a micro-op raises InvalidOpcode, so no program can write one. -/
def Obligations.OnlyTheThirteenMnemonicsDecode : Prop :=
  (∀ (s : State) (f : Fetched), s.cir = some f →
    (∀ (m : Mnemonic), (splitBlanks f.token).head? ≠ some m.name) →
    decode s.config.gprNames f.token = .error (.invalidOpcode f.token) ∧
      decodeStage s = .fault (.invalidOpcode f.token)) ∧
  (∀ (names : List Gpr) (t : Token) (m : Mnemonic), (splitBlanks t).head? = some m.name →
    decode names t ≠ .error (.invalidOpcode t)) ∧
  (∀ (s : State) (f : Fetched) (m : Mnemonic) (args : List Token), s.cir = some f →
    splitBlanks f.token = m.name :: args →
    (∃ a ∈ args, operandOf s.config.gprNames a = none) ∨ args.length ≠ operandCount m ∨
      (m ∈ writesFirst ∧ ∃ a v, args.head? = some a ∧ operandOf s.config.gprNames a = some (.imm v)) →
    decode s.config.gprNames f.token = .error (.malformedInstruction f.token) ∧
      decodeStage s = .fault (.malformedInstruction f.token)) ∧
  (∀ (names : List Gpr) (t : Token) (m : Mnemonic) (args : List Token) (ops : List Operand),
    splitBlanks t = m.name :: args → args.map (operandOf names) = ops.map some → args.length = operandCount m →
    (m ∈ writesFirst → ∀ v, ops.head? ≠ some (.imm v)) →
    ∃ i, decode names t = .ok i ∧ spelledAs i = some (m, ops)) ∧
  (∀ (names : List Gpr) (t : Token) (i : Instr), decode names t = .ok i →
    ∃ (m : Mnemonic) (args : List Token) (ops : List Operand), splitBlanks t = m.name :: args ∧
      args.map (operandOf names) = ops.map some ∧ spelledAs i = some (m, ops)) ∧
  (∀ (names : List Gpr) (u : MicroOp), decode names u.text = .error (.invalidOpcode u.text))

/-- R99: the operand width starts at 8 and the narrowest suffix of a Register operand wins. -/
def Obligations.OperandWidthIsTheNarrowestSuffix : Prop :=
  ∀ ops : List Operand,
    (∀ o ∈ ops, (operandWidth ops).bytes ≤ suffixBytes o) ∧
    ((operandWidth ops).bytes = 8 ∨ ∃ o ∈ ops, (operandWidth ops).bytes = suffixBytes o)

/-- R101: the micro-op group of each macro-instruction, every micro-op with the group's width. -/
def Obligations.GroupsAreThoseOfTheExpansionTable : Prop :=
  (∀ a b, groupOf (.mov a b) =
    some [.load b (operandWidth [a.toOperand, b]), .sto a (operandWidth [a.toOperand, b])]) ∧
  (∀ a, groupOf (.jmp a) = some [.load a (operandWidth [a]), .jmp .mp (operandWidth [a])]) ∧
  (∀ a, groupOf (.je a) = some [.load a (operandWidth [a]), .jmp .e (operandWidth [a])]) ∧
  (∀ a, groupOf (.jne a) = some [.load a (operandWidth [a]), .jmp .ne (operandWidth [a])]) ∧
  (∀ a, groupOf (.jg a) = some [.load a (operandWidth [a]), .jmp .g (operandWidth [a])]) ∧
  (∀ a, groupOf (.jl a) = some [.load a (operandWidth [a]), .jmp .l (operandWidth [a])]) ∧
  (∀ a, groupOf (.jge a) = some [.load a (operandWidth [a]), .jmp .ge (operandWidth [a])]) ∧
  (∀ a, groupOf (.jle a) = some [.load a (operandWidth [a]), .jmp .le (operandWidth [a])]) ∧
  (∀ a, groupOf (.inc a) = some [.load a.toOperand (operandWidth [a.toOperand]),
    .add (.imm 1) (operandWidth [a.toOperand]), .sto a (operandWidth [a.toOperand])]) ∧
  (∀ a, groupOf (.dec a) = some [.load a.toOperand (operandWidth [a.toOperand]),
    .sub (.imm 1) (operandWidth [a.toOperand]), .sto a (operandWidth [a.toOperand])]) ∧
  (∀ a b, groupOf (.cmp a b) = some [.load b (operandWidth [a, b]), .cmp a (operandWidth [a, b])]) ∧
  groupOf .syscall = some [.syscall (operandWidth [])] ∧
  groupOf .noop = some [.noop (operandWidth [])]

/-! ### Registers, operands and the data micro-ops -/

/-- R23, R24: the 8-byte view reads as the signed 64-bit integer and a narrow view as its low bytes unsigned; a write
through a view replaces the register's low bytes by those of the value and leaves the bytes above the view, and every
other register, unchanged. -/
def Obligations.RegisterViewsAreTheLowBytes : Prop :=
  ∀ (s : State) (t : RegTok),
    (t.suffix.view = .eight → s.regRead t = sint64 (s.reg t.reg) ∧ -2 ^ 63 ≤ s.regRead t ∧ s.regRead t < 2 ^ 63) ∧
    (t.suffix.view ≠ .eight →
      s.regRead t = ((s.reg t.reg).toNat % 2 ^ (8 * t.suffix.view.bytes) : Nat)) ∧
    (∀ (v : Int) (i : Nat), i < 64 → ((s.regWrite t v).reg t.reg).getLsbD i =
      if i < 8 * t.suffix.view.bytes then (toWord v).getLsbD i else (s.reg t.reg).getLsbD i) ∧
    (∀ v : Int, SameRegsBut t.reg s (s.regWrite t v))

/-- R261: the value of each operand form, and what a Memory operand raises or refuses once its address is known. -/
def Obligations.OperandValueOfEveryForm : Prop :=
  ∀ s : State,
    (∀ v, operandVal s (.imm v) = .next v) ∧
    (∀ t, operandVal s (.reg t) = .next (s.regRead t)) ∧
    (∀ e a, generate e s.gpr = .next a →
      (a < 0 ∨ (s.config.memSize : Int) ≤ a → operandVal s (.mem e) = .fault (.memoryOutOfRange a)) ∧
      (0 ≤ a ∧ a < s.config.memSize →
        (s.mem.read a.toNat = none → operandVal s (.mem e) = .refused (.unwrittenCellRead a)) ∧
        (∀ t, s.mem.read a.toNat = some (.token t) → operandVal s (.mem e) = .fault (.loadNonNumber a)) ∧
        (∀ v, s.mem.read a.toNat = some (.number v) → operandVal s (.mem e) = .next v))) ∧
    (∀ e r, generate e s.gpr = .fault r → operandVal s (.mem e) = .fault r)

/-- R262: LOAD replaces all 64 bits of the accumulator by the operand's value and changes nothing else; where the operand
has no value it stops as the operand does. -/
def Obligations.LoadReplacesTheAccumulator : Prop :=
  ∀ (s : State) (a : Operand) (w : Width),
    StopsAlike (operandVal s a) (exec (.microLoad a w) s) ∧
    ∀ v, operandVal s a = .next v →
      ∃ t, exec (.microLoad a w) s = .next t ∧ t.accWord = toWord v ∧ SameRegsBut s.config.acc s t ∧
        t.flags = s.flags ∧ SameCells s t ∧ SameCore s t

/-- R263: STO to a register writes the accumulator, truncated to the micro-op's width, through the destination token's
own view; STO to memory replaces the whole content of the cell at the AGU's address by that Number, and outside the
memory raises MemoryOutOfRange, and the AGU's errors are raised as they come. Nothing else changes; the accumulator only if it is the destination. -/
def Obligations.StoreWritesItsDestination : Prop :=
  (∀ (s : State) (r : RegTok) (w : Width),
    ∃ t, exec (.microSto (.reg r) w) s = .next t ∧
      t.reg r.reg = writeView r.suffix.view (s.reg r.reg) (readView w s.accWord) ∧
      SameRegsBut r.reg s t ∧ t.flags = s.flags ∧ SameCells s t ∧ SameCore s t) ∧
  (∀ (s : State) (e : Token) (w : Width) (a : Int), generate e s.gpr = .next a →
    (0 ≤ a ∧ a < s.config.memSize →
      ∃ t, exec (.microSto (.mem e) w) s = .next t ∧ t.mem.read a.toNat = some (.number (readView w s.accWord)) ∧
        SameCellsBut a.toNat s t ∧ SameRegs s t ∧ t.flags = s.flags ∧ SameCore s t) ∧
    (a < 0 ∨ (s.config.memSize : Int) ≤ a → exec (.microSto (.mem e) w) s = .fault (.memoryOutOfRange a))) ∧
  (∀ (s : State) (e : Token) (w : Width) (r : Fault), generate e s.gpr = .fault r →
    exec (.microSto (.mem e) w) s = .fault r)

/-- R264, R265: ADD adds the operand's value to the accumulator modulo 2^64, and SUB subtracts it; nothing else changes,
no flag either; where the operand has no value they stop as the operand does. -/
def Obligations.AddAndSubWrapAndSetNoFlag : Prop :=
  ∀ (s : State) (a : Operand) (w : Width),
    StopsAlike (operandVal s a) (exec (.microAdd a w) s) ∧ StopsAlike (operandVal s a) (exec (.microSub a w) s) ∧
    ∀ v, operandVal s a = .next v →
      (∃ t, exec (.microAdd a w) s = .next t ∧ t.accWord = toWord (sint64 s.accWord + v) ∧
        t.accWord = s.accWord + toWord v ∧ SameRegsBut s.config.acc s t ∧ t.flags = s.flags ∧ SameCells s t ∧
        SameCore s t) ∧
      (∃ t, exec (.microSub a w) s = .next t ∧ t.accWord = toWord (sint64 s.accWord + -v) ∧
        t.accWord = s.accWord - toWord v ∧ SameRegsBut s.config.acc s t ∧ t.flags = s.flags ∧ SameCells s t ∧
        SameCore s t)

/-- R266: CMP sets SF and ZF from the exact difference accumulator minus operand, and PF by `PARITY` of it, which is by
default the even parity of its low 8 bits; no register, cell or other state changes; where the operand has no value it
stops as the operand does. -/
def Obligations.CmpSetsTheFlagsOfTheExactDifference : Prop :=
  (∀ (s : State) (a : Operand) (w : Width),
    StopsAlike (operandVal s a) (exec (.microCmp a w) s) ∧
    ∀ v, operandVal s a = .next v →
      ∃ t, exec (.microCmp a w) s = .next t ∧
        t.flags.sf = decide (sint64 s.accWord - v < 0) ∧ t.flags.zf = decide (sint64 s.accWord - v = 0) ∧
        t.flags.pf = parityOf s.config.parity (sint64 s.accWord - v) ∧
        SameRegs s t ∧ SameCells s t ∧ SameCore s t) ∧
  ∀ d : Int, parityOf .evenLow8 d = decide ((Nat.digits 2 (d % 256).toNat).sum % 2 = 0)

/-- R273: NOOP has no effect. -/
def Obligations.NoopHasNoEffect : Prop :=
  ∀ (s : State) (w : Width),
    ∃ t, exec (.microNoop w) s = .next t ∧ SameRegs s t ∧ t.flags = s.flags ∧ SameCells s t ∧ SameCore s t

/-! ### JMP -/

/-- R268: the condition table, and what each condition says after a comparison of `a` with `b` (difference `b - a`);
`l` and `le` are then one condition. -/
def Obligations.ConditionsCompareTheOperands : Prop :=
  (∀ f : Flags,
    condHolds .e f = f.zf ∧ condHolds .ne f = !f.zf ∧ condHolds .g f = f.sf ∧ condHolds .l f = !f.sf ∧
    condHolds .ge f = (f.sf || f.zf) ∧ condHolds .le f = (!f.sf || f.zf) ∧ condHolds .mp f = true) ∧
  (∀ (p : ParityFn) (a b : Int),
    condHolds .e (flagsOf p (b - a)) = decide (a = b) ∧ condHolds .ne (flagsOf p (b - a)) = decide (a ≠ b) ∧
    condHolds .g (flagsOf p (b - a)) = decide (a > b) ∧ condHolds .l (flagsOf p (b - a)) = decide (a ≤ b) ∧
    condHolds .ge (flagsOf p (b - a)) = decide (a ≥ b) ∧ condHolds .le (flagsOf p (b - a)) = decide (a ≤ b))

/-- R267: JMP takes the location from the reorder head, the target from the accumulator and the successor's tag from the
entry behind. When the outcome equals the tag it records the cycle under Predicted, flushes nothing and leaves `rip`;
when not, it flushes, sends `rip` to the target if the condition held and to the location after the branch if not, and
records the cycle under Mispredicted. It updates the predictor, stalls it (on a match only if `STALL_AFTER_MATCH`), and
stops as that update does; with no successor it is refused. -/
def Obligations.JmpResolvesTheBranch : Prop :=
  ∀ (s : State) (c : Cond) (w : Width),
    (s.rob.length < 2 → exec (.microJmp c w) s = .refused .staleSlotRead) ∧
    ∀ (r x : RobEntry) (rs : List RobEntry), s.rob = r :: x :: rs →
      StopsAlike (update s.config s.predictor r.issuing (sint64 s.accWord) (condHolds c s.flags))
        (exec (.microJmp c w) s) ∧
      ∀ p, update s.config s.predictor r.issuing (sint64 s.accWord) (condHolds c s.flags) = .next p →
        ∃ t, exec (.microJmp c w) s = .next t ∧ t.output = s.output ∧ SameStanding s t ∧ SameRegs s t ∧
          t.flags = s.flags ∧ SameCells s t ∧
          (condHolds c s.flags = x.speculative →
            t.predicted = s.predicted ++ [s.cycleNumber] ∧ t.mispredicted = s.mispredicted ∧ SamePipeline s t ∧
            t.predictor = (if s.config.stallAfterMatch then p.stall else p)) ∧
          (condHolds c s.flags ≠ x.speculative →
            t.mispredicted = s.mispredicted ++ [s.cycleNumber] ∧ t.predicted = s.predicted ∧ Flushed s t ∧
            t.rip = (if condHolds c s.flags then s.accWord else toWord (r.issuing + 1)) ∧ t.predictor = p.stall)

/-- R175, R177, R179, R181, R186, R188: a JMP with a successor behind it completes whenever both tables of the
predictor have an empty slot, and under AlwaysNotTaken always. -/
def Obligations.JmpCompletesWhileTheTablesHaveRoom : Prop :=
  ∀ (s : State) (c : Cond) (w : Width) (r x : RobEntry) (rs : List RobEntry),
    s.rob = r :: x :: rs →
    (s.config.predictor = .alwaysNotTaken ∨
      ((∃ j, j < s.predictor.btb.length ∧ slotAt s.predictor.btb j = none) ∧
       (∃ j, j < s.predictor.dir.length ∧ slotAt s.predictor.dir j = none))) →
    ∃ t, exec (.microJmp c w) s = .next t

/-! ### SYSCALL -/

/-- R270: SYSCALL with 1 in the accumulator's low byte hands the contents of the cells from `SYS_WRITE_BUF_REG` on,
`SYS_WRITE_LEN_REG` of them (none if that is 0 or negative), to the output in order; nothing else changes. The first of
those cells that is outside the memory raises MemoryOutOfRange, and the first that is Unwritten is refused. -/
def Obligations.SyscallOneWritesCells : Prop :=
  ∀ (s : State) (w : Width) (buf : Int) (len : Nat),
    s.accWord.toNat % 256 = 1 → buf = sint64 (s.reg s.config.sysWriteBufReg) →
    len = (sint64 (s.reg s.config.sysWriteLenReg)).toNat →
    (∀ cs : List Content, cs.length = len →
      (∀ i (h : i < cs.length), 0 ≤ buf + i ∧ buf + i < s.config.memSize ∧ s.mem.read (buf + i).toNat = some cs[i]) →
      ∃ t, exec (.microSyscall w) s = .next t ∧ t.output = s.output ++ cs ∧ t.predicted = s.predicted ∧
        t.mispredicted = s.mispredicted ∧ SameRegs s t ∧ t.flags = s.flags ∧ SameCells s t ∧ SameStanding s t ∧
        SamePipeline s t ∧ t.predictor = s.predictor) ∧
    (∀ k : Nat, k < len →
      (∀ i : Nat, i < k → 0 ≤ buf + i ∧ buf + i < s.config.memSize ∧ s.mem.read (buf + i).toNat ≠ none) →
      (buf + k < 0 ∨ s.config.memSize ≤ buf + k →
        exec (.microSyscall w) s = .fault (.memoryOutOfRange (buf + k))) ∧
      (0 ≤ buf + k ∧ buf + k < s.config.memSize ∧ s.mem.read (buf + k).toNat = none →
        exec (.microSyscall w) s = .refused (.unwrittenCellRead (buf + k))))

/-- R269, R271: SYSCALL with 60 in the accumulator's low byte clears `running` and flushes the pipeline; registers,
flags, memory, predictor and result lists are left as they are. -/
def Obligations.SyscallSixtyHalts : Prop :=
  ∀ (s : State) (w : Width), s.accWord.toNat % 256 = 60 →
    ∃ t, exec (.microSyscall w) s = .next t ∧ t.running = false ∧ Flushed s t ∧ t.rip = s.rip ∧ SameRegs s t ∧
      t.flags = s.flags ∧ SameCells s t ∧ t.predictor = s.predictor ∧ SameResults s t ∧ t.config = s.config ∧
      t.cs = s.cs ∧ t.ds = s.ds ∧ t.cycle = s.cycle ∧ t.lastFetched = s.lastFetched ∧
      t.lastDecoded = s.lastDecoded ∧ t.lastExecuted = s.lastExecuted

/-- R269, R272: SYSCALL with any other number is refused, with that number. -/
def Obligations.SyscallOtherNumbersAreRefused : Prop :=
  ∀ (s : State) (w : Width), s.accWord.toNat % 256 ≠ 1 → s.accWord.toNat % 256 ≠ 60 →
    exec (.microSyscall w) s = .refused (.unknownSyscall (s.accWord.toNat % 256))

/-! ### The macro-instructions at Decode -/

/-- R228, R229: each of the thirteen macro-instructions (mov, jmp, je, jne, jg, jl, jge, jle, inc, dec, cmp, syscall,
noop, each with every operand it admits), with room for its whole group in both buffers, appends one
reorder entry and one micro-op per micro-op of the group, with `rip` as the location and the fetch's marker, and clears
the Fetch and Execute stall flags; nothing else changes but the trace of the group. -/
def Obligations.IssueInsertsTheWholeGroup : Prop :=
  ∀ (i : Instr) (g : List MicroOp) (s : State) (f : Fetched),
    groupOf i = some g → s.cir = some f → s.rob.length + g.length ≤ s.config.robCapacity →
    s.pb.length + g.length ≤ s.config.pbCapacity →
    ∃ t, exec i s = .next t ∧
      t.rob = s.rob ++ g.map (fun u => ⟨u.opcode, sint64 s.rip, f.speculative⟩) ∧ t.pb = s.pb ++ g ∧
      t.lastDecoded = g ∧ t.stall = ⟨false, s.stall.decode, false⟩ ∧ SameRegs s t ∧ t.flags = s.flags ∧
      SameCells s t ∧ SameResults s t ∧ t.predictor = s.predictor ∧ t.rip = s.rip ∧ t.mar = s.mar ∧
      t.mbr = s.mbr ∧ t.cir = s.cir ∧ t.config = s.config ∧ t.cs = s.cs ∧ t.ds = s.ds ∧ t.running = s.running ∧
      t.cycle = s.cycle ∧ t.lastFetched = s.lastFetched ∧ t.lastExecuted = s.lastExecuted

/-- R227: a macro-instruction whose group does not fit in one of the buffers stalls Fetch, inserts nothing, and changes
nothing else. -/
def Obligations.IssueWithoutRoomStallsFetchOnly : Prop :=
  ∀ (i : Instr) (g : List MicroOp) (s : State) (f : Fetched),
    groupOf i = some g → s.cir = some f →
    s.config.robCapacity - s.rob.length < g.length ∨ s.config.pbCapacity - s.pb.length < g.length →
    ∃ t, exec i s = .next t ∧ t.stall = ⟨true, s.stall.decode, s.stall.execute⟩ ∧ t.rob = s.rob ∧ t.pb = s.pb ∧
      t.rip = s.rip ∧ t.mar = s.mar ∧ t.mbr = s.mbr ∧ t.cir = s.cir ∧ SameRegs s t ∧ t.flags = s.flags ∧
      SameCells s t ∧ SameResults s t ∧ t.predictor = s.predictor ∧ SameStanding s t

/-! ### The net effect of the groups -/

/-- R301: the two micro-ops of `mov a b`, executed one after the other, load the source's value into the accumulator and
store the accumulator, at the group's width, to the destination as it resolves then. -/
def Obligations.MovLoadsThenStores : Prop :=
  ∀ (s : State) (a : Dest) (b : Operand) (g rest : List MicroOp) (v : Int) (t : State),
    groupOf (.mov a b) = some g → GroupAtHead s g rest → operandVal s b = .next v →
    storeDest (s.setAcc v) (readView (operandWidth [a.toOperand, b]) (toWord v)) a = .next t →
    ∃ u, executeN 2 s = .next u ∧ SameRegs t u ∧ SameCells t u ∧ u.flags = s.flags ∧ GroupRetired s u g rest

/-- R309, R310: the three micro-ops of `inc a` add 1 to the operand's value in the accumulator, modulo 2^64, and store it
back at the operand's width; those of `dec a` subtract 1; an address is evaluated again, with the new accumulator. -/
def Obligations.IncAndDecChangeByOne : Prop :=
  ∀ (s : State) (i : Instr) (k : Int) (a : Dest) (g rest : List MicroOp) (v : Int) (t : State),
    (i, k) ∈ [(Instr.inc a, (1 : Int)), (Instr.dec a, -1)] →
    groupOf i = some g → GroupAtHead s g rest → operandVal s a.toOperand = .next v →
    storeDest (s.setAcc (v + k)) (readView (operandWidth [a.toOperand]) (toWord (v + k))) a = .next t →
    ∃ u, executeN 3 s = .next u ∧ SameRegs t u ∧ SameCells t u ∧ u.flags = s.flags ∧ GroupRetired s u g rest

/-- R311: the two micro-ops of `cmp a b` leave the second operand in the accumulator and the flags of second minus
first; no other register and no cell changes. -/
def Obligations.CmpComparesSecondWithFirst : Prop :=
  ∀ (s : State) (a b : Operand) (g rest : List MicroOp) (vb va : Int),
    groupOf (.cmp a b) = some g → GroupAtHead s g rest → operandVal s b = .next vb →
    operandVal (s.setAcc vb) a = .next va →
    ∃ u, executeN 2 s = .next u ∧ u.accWord = toWord vb ∧ SameRegsBut s.config.acc s u ∧ SameCells s u ∧
      u.flags = flagsOf s.config.parity (sint64 (toWord vb) - va) ∧ GroupRetired s u g rest

/-- R302 to R308: the two micro-ops of a jump to `a`, in flight with the next instruction's entry `x` behind them, load
the target into the accumulator and resolve the branch on the flags as they are: a match records Predicted and leaves
`rip`; a mismatch flushes and sends `rip` to the target if the condition holds and after the branch if not. The
predictor is told the branch, its target and the outcome. -/
def Obligations.JumpsResolveOnTheFlags : Prop :=
  ∀ (s : State) (i : Instr) (c : Cond) (a : Operand) (v : Int) (r0 r1 x : RobEntry) (rs : List RobEntry)
    (rest : List MicroOp) (p : PredictorState),
    (i, c) ∈ [(Instr.jmp a, Cond.mp), (Instr.je a, Cond.e), (Instr.jne a, Cond.ne), (Instr.jg a, Cond.g),
      (Instr.jl a, Cond.l), (Instr.jge a, Cond.ge), (Instr.jle a, Cond.le)] →
    groupOf i = some (jumpGroup c a) → s.pb = jumpGroup c a ++ rest → s.rob = r0 :: r1 :: x :: rs →
    operandVal s a = .next v →
    update s.config s.predictor r1.issuing (sint64 (toWord v)) (condHolds c s.flags) = .next p →
    ∃ u, executeN 2 s = .next u ∧ u.accWord = toWord v ∧ SameRegsBut s.config.acc s u ∧ u.flags = s.flags ∧
      SameCells s u ∧ u.output = s.output ∧
      (condHolds c s.flags = x.speculative →
        u.predicted = s.predicted ++ [s.cycleNumber] ∧ u.mispredicted = s.mispredicted ∧ u.rip = s.rip ∧
        u.pb = rest ∧ u.rob = x :: rs ∧ u.predictor = (if s.config.stallAfterMatch then p.stall else p)) ∧
      (condHolds c s.flags ≠ x.speculative →
        u.mispredicted = s.mispredicted ++ [s.cycleNumber] ∧ u.predicted = s.predicted ∧
        u.rip = (if condHolds c s.flags then toWord v else toWord (r1.issuing + 1)) ∧ Flushed s u ∧
        u.predictor = p.stall)

/-! ### The step -/

/-- R221, R226, R260: a step of a running machine runs what the stages hold. With Execute stalled and Decode not, it is
the instruction that the token in `cir` decodes to, then Fetch's turn; with Execute un-stalled, it is the micro-op at
the head of the buffers, whose entries are then removed, then Decode's and Fetch's turns. -/
def Obligations.StepRunsTheDecodedInstruction : Prop :=
  (∀ (s : State) (f : Fetched) (i : Instr),
    s.running = true → s.stall.execute = true → s.stall.decode = false → s.cir = some f →
    decode s.config.gprNames f.token = .ok i → i.wf s.config.gprNames = true →
    step s = andThen (exec i s.tick) fetchTurn) ∧
  (∀ (s : State) (u : MicroOp) (us : List MicroOp) (r : RobEntry) (rs : List RobEntry),
    s.running = true → s.stall.execute = false → s.pb = u :: us → s.rob = r :: rs →
    step s = andThen (exec u.toInstr (s.tick.traceExecuted u)) fun t =>
      andThen (decodeTurn t.popHeads) fetchTurn)

/-- R223, R224, R225: Fetch takes the predicted address to `rip` and `mar`, the token there (`noop` at and beyond
dataStart) to `mbr` and `cir`, tags it speculative exactly when the address is not pc + 1, and un-stalls Decode; nothing
else changes but the predictor and the trace. Below dataStart a Number, an Unwritten cell and an address outside the
memory stop it, and a predictor's error does. -/
def Obligations.FetchLatchesThePredictedAddress : Prop :=
  ∀ s : State,
    StopsAlike (predict s.config s.predictor s.ripb) (fetchStage s) ∧
    ∀ (n : Int) (p : PredictorState), predict s.config s.predictor s.ripb = .next (n, p) →
    (∀ tok, (s.ds ≤ n ∧ tok = "noop".toList) ∨
        (n < s.ds ∧ 0 ≤ n ∧ n < s.config.memSize ∧ s.mem.read n.toNat = some (.token tok)) →
      ∃ t, fetchStage s = .next t ∧ t.rip = toWord n ∧ t.mar = toWord n ∧ t.mbr = some tok ∧
        t.cir = some ⟨tok, decide (n ≠ (s.rip.toNat % 256 : Nat) + 1)⟩ ∧ t.lastFetched = some tok ∧
        t.stall = ⟨s.stall.fetch, false, s.stall.execute⟩ ∧ t.predictor = p ∧ SameRegs s t ∧ t.flags = s.flags ∧
        SameCells s t ∧ SameResults s t ∧ t.rob = s.rob ∧ t.pb = s.pb ∧ t.config = s.config ∧ t.cs = s.cs ∧
        t.ds = s.ds ∧ t.running = s.running ∧ t.cycle = s.cycle ∧ t.lastDecoded = s.lastDecoded ∧
        t.lastExecuted = s.lastExecuted) ∧
    (n < s.ds → n < 0 ∨ (s.config.memSize : Int) ≤ n → fetchStage s = .fault (.memoryOutOfRange n)) ∧
    (n < s.ds ∧ 0 ≤ n ∧ n < s.config.memSize →
      (∀ v, s.mem.read n.toNat = some (.number v) → fetchStage s = .fault (.fetchNonToken n)) ∧
      (s.mem.read n.toNat = none → fetchStage s = .refused (.unwrittenCellRead n)))

/-- R222, R234: with `FLUSH_STALLS_FETCH`, in the cycle whose JMP is mispredicted Decode and Fetch are skipped: the
buffers and `cir` stay empty, the skipped Fetch has cleared its own flag, and `rip` holds the resolved target with the
predictor stalled. -/
def Obligations.MispredictionCostsTheRestOfTheCycle : Prop :=
  ∀ (s t : State) (c : Cond) (w : Width) (us : List MicroOp) (r x : RobEntry) (rs : List RobEntry),
    s.running = true → s.config.flushStallsFetch = true → s.stall.execute = false →
    s.pb = .jmp c w :: us → s.rob = r :: x :: rs → condHolds c s.flags ≠ x.speculative → step s = .next t →
    t.stall = ⟨false, true, true⟩ ∧ t.rob = [] ∧ t.pb = [] ∧ t.cir = none ∧
    t.rip = (if condHolds c s.flags then s.accWord else toWord (r.issuing + 1)) ∧ t.predictor.stalled = true

/-- R377: after a correctly predicted branch, with `STALL_AFTER_MATCH` and the latest Fetch at an address of one byte,
that address is not moved on from: in the same cycle Fetch is skipped with the predictor stalled, or fetches that same
address again, tagged speculative. -/
def Obligations.MatchedBranchMakesFetchRepeatTheAddress : Prop :=
  ∀ (s t : State) (c : Cond) (w : Width) (us : List MicroOp) (r x : RobEntry) (rs : List RobEntry),
    s.running = true → s.config.stallAfterMatch = true → s.stall.execute = false →
    s.pb = .jmp c w :: us → s.rob = r :: x :: rs → condHolds c s.flags = x.speculative → s.rip.toNat < 256 →
    step s = .next t →
    t.rip = s.rip ∧
    (t.predictor.stalled = true ∧ t.cir = s.cir ∨
     t.predictor.stalled = false ∧ ∃ tok, t.cir = some ⟨tok, true⟩)

/-! ### The address generation unit -/

/-- R158: the source's three tests and some of the examples that follow from the rules, for any contents of the sixteen
registers of the default names. -/
def Obligations.AguExamples : Prop :=
  ∀ f : RegFile, f.names = Config.default.gprNames →
    generate "[rbx+rcx+5]".toList f = .next (sint64 (f.get "rbx".toList) + sint64 (f.get "rcx".toList) + 5) ∧
    generate "[10*2]".toList f = .next 20 ∧ generate "[2+3*4]".toList f = .next 14 ∧
    generate "[8-2-1]".toList f = .next 5 ∧ generate "[2*3+4]".toList f = .next 10 ∧
    generate "[7/2]".toList f = .next 3 ∧ generate "[1-7/2]".toList f = .next (-2) ∧
    generate "[100/7*7]".toList f = .next 98

/-- R152 to R156: for every alternating list of operator tokens and operand tokens that have a value, the
shunting-yard and the postfix evaluation together compute what a left-to-right reading with `*` and `/` before `+` and
`-` does, its division by zero included. -/
def Obligations.AguEvaluatesWithPrecedence : Prop :=
  ∀ (expr : Token) (f : RegFile) (t : Token) (v : Int) (rest : List (AguOp × Token × Int)),
    operandValue f t = some v → (∀ e ∈ rest, operandValue f e.2.1 = some e.2.2) →
    evalPostfix expr f
      (toPostfix (.operand t :: rest.flatMap (fun e => [.op e.1, .operand e.2.1]))) [] =
    infixValue expr v (rest.map (fun e => (e.1, e.2.2)))

/-- R151: one enclosing pair of brackets makes no difference to the value, and R157: nothing between them is a malformed
expression. -/
def Obligations.AguStripsOnePairOfBrackets : Prop :=
  (∀ (e : Token) (f : RegFile) (v : Int), isBracketed e = false →
    (generate ('[' :: e ++ [']']) f = .next v ↔ generate e f = .next v)) ∧
  (∀ f, generate "[]".toList f = .fault (.malformedExpression "[]".toList))

/-! ### Buffers -/

/-- R121, R122, R125: a circular buffer takes its capacity of items in order and no more; removing drops the oldest and
does nothing on an empty buffer; after N adds and M removes, M ≤ N, N - M items are left. -/
def Obligations.CircularBufferHoldsItsCapacity : Prop :=
  ∀ (α : Type) (cap : Nat) (xs : List α) (x : α),
    (xs.length < cap → circAdd cap xs x = .next (xs ++ [x])) ∧ (xs.length = cap → circAdd cap xs x = .fault .bufferFull) ∧
    (xs.length ≤ cap → circAddAll cap [] xs = .next xs) ∧
    (xs.length = cap → circAddAll cap [] (xs ++ [x]) = .fault .bufferFull) ∧
    circRemove ([] : List α) = [] ∧ circRemove (x :: xs) = xs ∧
    (∀ m, m ≤ xs.length → (Nat.repeat circRemove m xs).length = xs.length - m ∧ Nat.repeat circRemove m xs = xs.drop m)

/-- R129, R130: an `add` succeeds exactly when some slot is empty, and raises TableFull when none is; after the `add`
of an absent key to a sound table, `get` with the key returns the item, every other key reads as before, and the table
stays sound and of its capacity. R132: the bulk insert adds its items in list order; it succeeds exactly when there are
as many empty slots, and after one of items of distinct absent keys `get` returns each of them. All of it for items of
any type with any key (R127, R134). -/
def Obligations.HashTableAddThenGet : Prop :=
  ∀ (α : Type) (keyOf : α → Int) (h : HashFn) (slots : List (Option α)) (x : α) (xs : List α),
    ((∃ t, tableAdd h keyOf slots x = .next t) ↔ ∃ j, j < slots.length ∧ slotAt slots j = none) ∧
    ((∀ j, j < slots.length → slotAt slots j ≠ none) → tableAdd h keyOf slots x = .fault .tableFull) ∧
    (∀ t, TableSound h keyOf slots → tableGet h keyOf slots (keyOf x) = none → tableAdd h keyOf slots x = .next t →
      tableGet h keyOf t (keyOf x) = some x ∧
      (∀ k, k ≠ keyOf x → tableGet h keyOf t k = tableGet h keyOf slots k) ∧
      t.length = slots.length ∧ TableSound h keyOf t) ∧
    tableAddAll h keyOf slots [] = .next slots ∧
    tableAddAll h keyOf slots (xs ++ [x]) = andThen (tableAddAll h keyOf slots xs) (fun t => tableAdd h keyOf t x) ∧
    ((∃ t, tableAddAll h keyOf slots xs = .next t) ↔ xs.length ≤ slots.countP Option.isNone) ∧
    (∀ t, TableSound h keyOf slots → (xs.map keyOf).Nodup → (∀ y ∈ xs, tableGet h keyOf slots (keyOf y) = none) →
      tableAddAll h keyOf slots xs = .next t →
      (∀ y ∈ xs, tableGet h keyOf t (keyOf y) = some y) ∧ TableSound h keyOf t)

/-- R131: `update` of a key that is present replaces that entry and no other; of one that is absent it raises
NotFound. For items of any type with any key (R127, R134). -/
def Obligations.HashTableUpdate : Prop :=
  ∀ (α : Type) (keyOf : α → Int) (h : HashFn) (slots : List (Option α)) (x : α),
    (tableGet h keyOf slots (keyOf x) = none → tableUpdate h keyOf slots x = .fault .notFound) ∧
    (tableGet h keyOf slots (keyOf x) ≠ none →
      ∃ t, tableUpdate h keyOf slots x = .next t ∧ tableGet h keyOf t (keyOf x) = some x ∧
        (∀ k, k ≠ keyOf x → tableGet h keyOf t k = tableGet h keyOf slots k) ∧ t.length = slots.length)

/-! ### Predictors -/

/-- R171, R172: after `stall()`, however often, the next `predict(pc)` of every variant returns exactly pc, touches no
table and no history, and the one after it is the variant's own. -/
def Obligations.StalledPredictPassesThroughOnce : Prop :=
  ∀ (c : Config) (p : PredictorState) (pc : Int),
    p.stall.stall = p.stall ∧
    ∃ q, predict c p.stall pc = .next (pc, q) ∧ q = { p with stalled := false } ∧
      ∀ pc', predict c q pc' = predictVariant c q pc'

/-- R174, R175, R176, R177: AlwaysNotTaken predicts pc + 1 and learns nothing; AlwaysTaken predicts the first destination
it was ever told for a branch, whatever the outcomes, and pc + 1 for a branch it was told nothing of. -/
def Obligations.AlwaysPredictors : Prop :=
  ∀ (c : Config) (p : PredictorState), p.stalled = false →
    (c.predictor = .alwaysNotTaken →
      (∀ pc, predict c p pc = .next (pc + 1, p)) ∧ ∀ a d b, update c p a d b = .next p) ∧
    (c.predictor = .alwaysTaken →
      (∀ pc, btbGet c p pc = none → predict c p pc = .next (pc + 1, p)) ∧
      (∀ pc e, btbGet c p pc = some e → predict c p pc = .next (e.destination, p)) ∧
      (∀ a d b p', update c p a d b = .next p' →
        (btbGet c p a = none → predict c p' a = .next (d, p')) ∧
        (∀ e, btbGet c p a = some e → p' = p)))

/-- R178, R179: a OneBit predictor, told an outcome of a branch, predicts that outcome for it next: the BTB destination
after taken, pc + 1 after not taken; the destination is the first one told. -/
def Obligations.OneBitPredictsTheLastOutcome : Prop :=
  ∀ (c : Config) (p p' : PredictorState) (a d : Int) (b : Bool),
    c.predictor = .oneBit → p.stalled = false → update c p a d b = .next p' →
    predict c p' a =
      .next (if b then (match btbGet c p a with | none => d | some e => e.destination) else a + 1, p')

/-- R181: the TwoBit certainty of a branch after an outcome is 2 or 1 when the branch was absent, else one toward 3 or
toward 0, saturating; and R180: 2 and 3 predict taken. -/
def Obligations.TwoBitCountsTowardTheOutcome : Prop :=
  ∀ (c : Config) (p p' : PredictorState) (a d : Int) (b : Bool),
    c.predictor = .twoBit → p.stalled = false → update c p a d b = .next p' →
    ∃ n : Fin 4, dirGet c p' a = some ⟨a, .counter n⟩ ∧
      (dirGet c p a = none → n = if b then 2 else 1) ∧
      (∀ e m, dirGet c p a = some e → e.certainty = .counter m →
        (n.val : Int) = if b then min (m.val + 1 : Int) 3 else max (m.val - 1 : Int) 0) ∧
      ∃ e, btbGet c p' a = some e ∧ predict c p' a = .next (if 2 ≤ n.val then e.destination else a + 1, p')

/-- R181 (the source's test): from an absent entry, with room in the tables, five taken outcomes of one branch leave its
certainty at 3 and its destination predicted; five not-taken ones leave 0 and pc + 1. -/
def Obligations.TwoBitSaturatesInFiveOutcomes : Prop :=
  ∀ (c : Config) (p : PredictorState) (a d : Int) (b : Bool),
    c.predictor = .twoBit → p.stalled = false → btbGet c p a = none → dirGet c p a = none →
    (∃ j, j < p.btb.length ∧ slotAt p.btb j = none) → (∃ j, j < p.dir.length ∧ slotAt p.dir j = none) →
    ∃ q, updateAll c a d [b, b, b, b, b] p = .next q ∧
      dirGet c q a = some ⟨a, .counter (if b then 3 else 0)⟩ ∧
      predict c q a = .next (if b then d else a + 1, q)

/-- R184: an un-stalled gshare `predict` on a BTB miss is pc + 1 and touches nothing; on a hit it takes the direction at
pc XOR toInt(GHR), taken if that entry is absent, moves the GHR's oldest bit to the OBQ and the direction into the GHR;
with the OBQ full it raises BufferFull. R183: toInt reads the history as a binary number, the oldest entry most
significant; R13: XOR is that of two's complement, and of two natural numbers their exclusive-or. -/
def Obligations.GsharePredictPushesItsPrediction : Prop :=
  historyInt [] = 0 ∧
  (∀ (b : Bool) (h : List Bool), historyInt (b :: h) = (if b then 2 ^ h.length else 0) + historyInt h) ∧
  (∀ m n : Nat, xorInt m n = ((m ^^^ n : Nat) : Int)) ∧
  (∀ (m n : Int) (i : Nat), (xorInt m n).testBit i = (m.testBit i != n.testBit i)) ∧
  ∀ (c : Config) (p : PredictorState) (pc : Int), c.predictor = .gshare → p.stalled = false →
    (btbGet c p pc = none → predict c p pc = .next (pc + 1, p)) ∧
    (∀ e b0 bs, btbGet c p pc = some e → p.ghr = b0 :: bs →
      (c.obqCapacity ≤ p.obq.length → predict c p pc = .fault .bufferFull) ∧
      (p.obq.length < c.obqCapacity →
        ∃ b : Bool,
          (dirGet c p (xorInt pc (historyInt p.ghr)) = none → b = true) ∧
          (∀ x o, dirGet c p (xorInt pc (historyInt p.ghr)) = some x → x.certainty = .outcome o → b = o) ∧
          predict c p pc = .next (if b then e.destination else pc + 1,
            { p with obq := p.obq ++ [b0], ghr := bs ++ [b] })))

/-- R185, R186: a gshare `update` enters the outcome at toInt(H) XOR source, H being the GHR with its tail replaced by the
OBQ, and the destination in the BTB; then an OBQ head equal to the outcome is popped, and otherwise the GHR becomes H
without its oldest bit and with the outcome, and the OBQ is emptied. R183: toInt of a history of N entries is the sum of
2^(N-1-i) over the entries i that are taken; R13: XOR is that of two's complement. -/
def Obligations.GshareUpdateSettlesTheHistory : Prop :=
  (∀ h : List Bool, historyInt h =
    ((List.range h.length).map (fun i => if h[i]? = some true then (2 : Int) ^ (h.length - 1 - i) else 0)).sum) ∧
  (∀ (m n : Int) (i : Nat), (xorInt m n).testBit i = (m.testBit i != n.testBit i)) ∧
  ∀ (c : Config) (p p' : PredictorState) (a d : Int) (b : Bool),
    c.predictor = .gshare → update c p a d b = .next p' →
    (∀ h, h = p.ghr.take (p.ghr.length - p.obq.length) ++ p.obq →
      dirGet c p' (xorInt (historyInt h) a) = some ⟨xorInt (historyInt h) a, .outcome b⟩ ∧
      (p.obq.head? = some b → p'.obq = p.obq.tail ∧ p'.ghr = p.ghr) ∧
      (p.obq.head? ≠ some b → p'.obq = [] ∧ p'.ghr = h.tail ++ [b])) ∧
    btbGet c p' a = some ⟨a, d⟩ ∧ p'.stalled = p.stalled

/-! ### Invariants and whole-machine rules -/

/-- The invariant of the pipeline is kept by every step, for all five predictors and all capacities: the buffers in
lock-step and within their capacities (R40, R232), an instruction in `cir` whenever Decode is un-stalled (R226), a
micro-op in flight whenever Execute is (R260), a successor still to come behind a youngest JMP (R379), one register per
name of `GPR_NAMES` (R21), and only registers of these named by the micro-ops in flight (R47). -/
def Obligations.StepKeepsThePipelineInvariant : Prop :=
  ∀ s t : State, PipelineInv s → step s = .next t → PipelineInv t

/-- The invariant of the predictor is kept by every step: GHR length, OBQ bound, table sizes, no key twice in a table,
certainties of the variant's kind (R41, R133, R187). -/
def Obligations.StepKeepsThePredictorInvariant : Prop :=
  ∀ s t : State, PredictorInv s → step s = .next t → PredictorInv t

/-- The invariant of memory is kept by every step: canonical form, only the cells that exist, only 64-bit Numbers
(R60). -/
def Obligations.StepKeepsTheMemoryInvariant : Prop :=
  ∀ s t : State, MemoryInv s → step s = .next t → MemoryInv t

/-- R35: each result list stays ascending, and no cycle number enters twice or in both; at most one is added a step. -/
def Obligations.StepKeepsTheResultListsAscending : Prop :=
  ∀ s t : State, ResultsInv s → step s = .next t →
    ResultsInv t ∧ t.predicted.length + t.mispredicted.length ≤ s.predicted.length + s.mispredicted.length + 1

/-- Every invariant holds after the load of any well-formed executable into a memory of fewer than 2^63 cells (so that
the header is of 64-bit numbers). That they hold at `State.reset` too is a statement about the model's own choice and no
rule of the spec: `State.reset` has the default parameters of log entry 4 and, by log entry 6, no executable, an empty
memory, and 0 in `cs`, `ds` and `rip` (DESIGN CHOICE, both). -/
def Obligations.ResetMeetsTheInvariants : Prop :=
  (∀ (c : Config) (exe : Executable) (s : State), c.wf = true → c.memSize < 2 ^ 63 → boot c exe = .next s →
    PipelineInv s ∧ PredictorInv s ∧ MemoryInv s ∧ ResultsInv s ∧ FlagsInv s) ∧
  PipelineInv State.reset ∧ PredictorInv State.reset ∧ MemoryInv State.reset ∧ ResultsInv State.reset ∧
  FlagsInv State.reset

/-- R379: whatever the executable, the predictor and the capacities within the constraints of R7, no run from reset
ever reads a stale slot, and Decode never finds `cir` empty. -/
def Obligations.RunsNeverReadAStaleSlot : Prop :=
  ∀ (c : Config) (exe : Executable) (s : State) (n : Nat), c.wf = true → boot c exe = .next s →
    Host.Core.run core n s ≠ .refused .staleSlotRead ∧ Host.Core.run core n s ≠ .refused .emptyInstructionRegister

/-- R335: NotFound is raised by no step; R334: BufferFull only under gshare; R188: TableFull only by a JMP, under a
variant with tables. -/
def Obligations.WhereTheBufferErrorsComeFrom : Prop :=
  ∀ s : State,
    step s ≠ .fault .notFound ∧
    (step s = .fault .bufferFull → s.config.predictor = .gshare) ∧
    (step s = .fault .tableFull → s.config.predictor ≠ .alwaysNotTaken ∧
      s.stall.execute = false ∧ ∃ c w, s.pb.head? = some (.jmp c w))

/-- R31: the flags change only in a step whose executed micro-op is CMP, and SF and ZF are never both set by one. -/
def Obligations.OnlyCmpChangesTheFlags : Prop :=
  ∀ s t : State, step s = .next t →
    (t.flags ≠ s.flags → s.stall.execute = false ∧ ∃ a w, s.pb.head? = some (.cmp a w)) ∧
    (FlagsInv s → FlagsInv t)

/-- R65, R71: memory changes only in a step whose executed micro-op is a STO to Memory, and only in the one cell at the
address the AGU gives for it, which then holds a Number. -/
def Obligations.OnlyStoChangesMemory : Prop :=
  ∀ s t : State, step s = .next t → ∀ a : Nat, t.mem.read a ≠ s.mem.read a →
    s.stall.execute = false ∧ ∃ e w, s.pb.head? = some (.sto (.mem e) w) ∧ generate e s.gpr = .next (a : Int) ∧
      t.mem.read a = some (.number (readView w s.accWord))

/-- R231, R271: the machine leaves Running only by SYSCALL with 60 in the accumulator's low byte. R34: a step of a
Running machine counts one cycle. A Halted one stays exactly as it is (log entry 8, the model's choice). -/
def Obligations.OnlySyscallSixtyHalts : Prop :=
  ∀ s t : State, step s = .next t →
    (s.running = true ∧ t.running = false →
      s.stall.execute = false ∧ (∃ w, s.pb.head? = some (.syscall w)) ∧ s.accWord.toNat % 256 = 60) ∧
    (s.running = true → t.cycle = s.cycle + 1) ∧ (s.running = false → t = s)

/-- R340, R71: speculation is confined to Fetch and Decode: a step whose Execute is stalled leaves the registers, the
flags, memory, the output, the result lists and the predictor's tables as they are; and no step changes the parameters
or the segment registers (R37, R46). -/
def Obligations.EffectsHappenOnlyAtExecute : Prop :=
  ∀ s t : State, step s = .next t →
    (s.stall.execute = true → SameRegs s t ∧ t.flags = s.flags ∧ SameCells s t ∧ SameResults s t ∧
      t.running = s.running ∧ t.predictor.btb = s.predictor.btb ∧ t.predictor.dir = s.predictor.dir) ∧
    t.config = s.config ∧ t.cs = s.cs ∧ t.ds = s.ds

/-- R132: no entry of the branch target buffer or the direction buffer is ever removed: a slot once occupied stays
occupied, by an entry with the same key. -/
def Obligations.BranchMetadataPersists : Prop :=
  ∀ s t : State, step s = .next t →
    (∀ j e, slotAt s.predictor.btb j = some e → ∃ e', slotAt t.predictor.btb j = some e' ∧ e'.key = e.key) ∧
    (∀ j e, slotAt s.predictor.dir j = some e → ∃ e', slotAt t.predictor.dir j = some e' ∧ e'.key = e.key)

/-- R28, R29, R31, R37, R43: nothing the machine does depends on `mar`, `mbr`, the parity flag, `cs` or the trace
registers: two states that differ only there step to the same outcome but for them. -/
def Obligations.DebugRegistersInfluenceNothing : Prop :=
  ∀ s : State, forgetResult (step s) = forgetResult (step s.forget)
end

