-- ==== Sys2Proof/Laws/Decode.lean ====
section
/-! SUPPORT. What the parts of the decoder answer: the register of a name, the operand forms of a list of tokens, the
mnemonic of its spelling. -/

namespace Sys2Proof

/-- A name is that of a register exactly when it is one of `GPR_NAMES`. -/
theorem gprOfName_eq_some {names : List Gpr} {t g : Token} : gprOfName names t = some g ↔ g = t ∧ t ∈ names := by
  unfold gprOfName
  constructor
  · intro h
    obtain rfl : g = t := by simpa using List.find?_some h
    exact ⟨rfl, List.mem_of_find?_eq_some h⟩
  · rintro ⟨rfl, h⟩
    obtain ⟨x, hx⟩ := Option.isSome_iff_exists.1 (List.find?_isSome (p := fun y => y == g).2 ⟨g, h, by simp⟩)
    obtain rfl : x = g := by simpa using List.find?_some hx
    exact hx

theorem gprOfName_eq_none {names : List Gpr} {t : Token} : gprOfName names t = none ↔ t ∉ names := by
  simp only [gprOfName, List.find?_eq_none, beq_iff_eq]
  exact ⟨fun h hm => h t hm rfl, fun h x hx e => h (e ▸ hx)⟩

/-- The operands of a list of tokens are the forms of its tokens, in order. -/
theorem operandsOf_eq_some {names : List Gpr} {args : List Token} {ops : List Operand} :
    operandsOf names args = some ops ↔ args.map (operandOf names) = ops.map some := by
  induction args generalizing ops with
  | nil => cases ops <;> simp [operandsOf]
  | cons a as ih =>
    cases ha : operandOf names a with
    | none => cases ops <;> simp [operandsOf, ha]
    | some o =>
      cases ops with
      | nil => simp [operandsOf, ha]
      | cons p ps =>
        simp only [operandsOf, ha, Option.map_eq_some_iff, List.map_cons, List.cons.injEq, Option.some.injEq]
        constructor
        · rintro ⟨q, hq, rfl, rfl⟩; exact ⟨rfl, ih.1 hq⟩
        · rintro ⟨rfl, h⟩; exact ⟨ps, ih.2 h, rfl, rfl⟩

/-- A list of tokens has no operands exactly when some token has no form (R94 test 4). -/
theorem operandsOf_eq_none {names : List Gpr} {args : List Token} :
    operandsOf names args = none ↔ ∃ a ∈ args, operandOf names a = none := by
  induction args with
  | nil => simp [operandsOf]
  | cons a as ih => cases ha : operandOf names a <;> simp [operandsOf, ha, ih]

@[simp] theorem mnemonicOf_name (m : Mnemonic) : mnemonicOf m.name = some m := by cases m <;> decide

/-- Only its own spelling is read as a mnemonic (R93). -/
theorem mnemonicOf_eq_some {t : Token} {m : Mnemonic} : mnemonicOf t = some m ↔ t = m.name := by
  constructor
  · intro h
    have hm : m.name = t := by simpa using List.find?_some (p := fun x : Mnemonic => x.name == t) h
    exact hm.symm
  · rintro rfl; exact mnemonicOf_name m

/-- What a token string that decodes is made of: a mnemonic's spelling, then tokens that each have a form. -/
theorem decode_eq_ok {names : List Gpr} {t : Token} {i : Instr} (h : decode names t = .ok i) :
    ∃ m args ops, splitBlanks t = Mnemonic.name m :: args ∧ operandsOf names args = some ops ∧ assemble m ops = some i := by
  unfold decode at h
  split at h
  · cases h
  · next a args hs =>
    split at h
    · cases h
    · next m hm =>
      split at h
      · cases h
      · next ops ho =>
        split at h
        · cases h
        · next j hj =>
          cases h
          exact ⟨m, args, ops, by rw [hs, mnemonicOf_eq_some.1 hm], ho, hj⟩

end Sys2Proof
end

