-- ==== Sys2Proof/Laws/Memory.lean ====
section
/-! SUPPORT. Memory: a read after a write, and the canonical form, which every memory operation keeps. -/

namespace Sys2Proof.Machine

theorem Memory.read_write (m : Memory) (a : Nat) (c : Content) (b : Nat) :
    (m.write a c).read b = if b = a then some c else m.read b := by
  induction m with
  | nil => by_cases h : b = a <;> simp [Memory.write, Memory.read, h]
  | cons e m ih =>
    obtain ⟨k, d⟩ := e
    by_cases h1 : a < k
    · simp only [Memory.write, h1, if_true, Memory.read]
    · by_cases h2 : a = k
      · subst h2
        simp only [Memory.write, lt_irrefl, if_false, if_true, Memory.read]
        split <;> simp_all
      · simp only [Memory.write, h1, h2, if_false, Memory.read, ih]
        by_cases h3 : b = k
        · have : b ≠ a := fun h => h2 (h.symm.trans h3)
          simp [h3, Ne.symm h2]
        · simp [h3]

@[simp] theorem Memory.read_write_same (m : Memory) (a : Nat) (c : Content) : (m.write a c).read a = some c := by
  simp [Memory.read_write]

theorem Memory.read_write_other (m : Memory) {a b : Nat} (c : Content) (h : b ≠ a) : (m.write a c).read b = m.read b := by
  simp [Memory.read_write, h]

/-- The addresses a write leaves listed: the written one and those listed before. -/
theorem Memory.mem_keys_write {m : Memory} {a : Nat} {c : Content} {x : Nat}
    (h : x ∈ (m.write a c).map Prod.fst) : x = a ∨ x ∈ m.map Prod.fst := by
  induction m with
  | nil => simpa [Memory.write] using h
  | cons e m ih =>
    obtain ⟨k, d⟩ := e
    by_cases h1 : a < k
    · simpa [Memory.write, h1] using h
    · by_cases h2 : a = k
      · simp only [Memory.write, h2, lt_irrefl, if_false, if_true, List.map_cons, List.mem_cons] at h ⊢
        tauto
      · simp only [Memory.write, h1, h2, if_false, List.map_cons, List.mem_cons] at h ⊢
        rcases h with h | h
        · exact .inr (.inl h)
        · exact (ih h).imp id .inr

/-- A write keeps the canonical form. -/
theorem Memory.wf_write {m : Memory} (h : m.wf) (a : Nat) (c : Content) : (m.write a c).wf := by
  induction m with
  | nil => simp [Memory.write, Memory.wf]
  | cons e m ih =>
    obtain ⟨k, d⟩ := e
    have hk : ∀ x ∈ m.map Prod.fst, k < x := (List.pairwise_cons.1 h).1
    have hm : (m.map Prod.fst).Pairwise (· < ·) := (List.pairwise_cons.1 h).2
    by_cases h1 : a < k
    · simp only [Memory.wf, Memory.write, h1, if_true, List.map_cons, List.pairwise_cons]
      refine ⟨fun x hx => ?_, hk, hm⟩
      rcases List.mem_cons.1 hx with rfl | hx
      · exact h1
      · exact lt_trans h1 (hk x hx)
    · by_cases h2 : a = k
      · simp only [Memory.wf, Memory.write, h2, lt_irrefl, if_false, if_true, List.map_cons, List.pairwise_cons]
        exact ⟨hk, hm⟩
      · simp only [Memory.wf, Memory.write, h1, h2, if_false, List.map_cons, List.pairwise_cons]
        refine ⟨fun x hx => ?_, ih hm⟩
        rcases Memory.mem_keys_write hx with rfl | hx
        · omega
        · exact hk x hx

/-- Every address a load lists is at or above its start. -/
theorem le_of_mem_keys_loadFrom {a x : Nat} {e : Executable} (h : x ∈ (loadFrom a e).map Prod.fst) : a ≤ x := by
  induction e generalizing a with
  | nil => simp [loadFrom] at h
  | cons c e ih =>
    rcases List.mem_cons.1 (by simpa [loadFrom] using h : x ∈ a :: (loadFrom (a + 1) e).map Prod.fst) with rfl | h
    · exact le_rfl
    · exact le_trans (Nat.le_succ a) (ih h)

/-- A load is in canonical form. -/
theorem loadFrom_wf (a : Nat) (e : Executable) : Memory.wf (loadFrom a e) := by
  induction e generalizing a with
  | nil => exact List.Pairwise.nil
  | cons c e ih =>
    simp only [Memory.wf, loadFrom, List.map_cons, List.pairwise_cons]
    exact ⟨fun x hx => le_of_mem_keys_loadFrom hx, ih (a + 1)⟩

/-- A load lists each element at its own index. -/
theorem read_loadFrom (a : Nat) (e : Executable) (i : Nat) : (loadFrom a e).read (a + i) = e[i]? := by
  induction e generalizing a i with
  | nil => simp [loadFrom, Memory.read]
  | cons c e ih =>
    cases i with
    | zero => simp [loadFrom, Memory.read]
    | succ i =>
      have h := ih (a + 1) i
      rw [show a + 1 + i = a + (i + 1) by omega] at h
      simp [loadFrom, Memory.read, h]

/-- What a store through the range check does: it is in range, and the memory is written there. -/
theorem memWrite_eq_next {s t : State} {a : Int} {c : Content} (h : memWrite s a c = .next t) :
    s.inRange a = true ∧ t = { s with mem := s.mem.write a.toNat c } := by
  unfold memWrite at h
  split at h
  · next hr => exact ⟨hr, by injection h with h; exact h.symm⟩
  · cases h

/-- A store through the range check keeps the canonical form. -/
theorem memWrite_wf {s t : State} {a : Int} {c : Content} (hs : s.mem.wf) (h : memWrite s a c = .next t) : t.mem.wf := by
  obtain ⟨_, rfl⟩ := memWrite_eq_next h
  exact Memory.wf_write hs _ _

/-- The memory at reset is in canonical form. -/
theorem reset_mem_wf : State.reset.mem.wf := List.Pairwise.nil

end Sys2Proof.Machine
end

