-- ==== Sys2Proof/Laws/State.lean ====
section
/-! SUPPORT. What each named update of the state does to each field: one lemma per field per update, and the laws of the
general registers. -/

namespace Sys2Proof.Machine

/-! ### The general registers -/

@[simp] theorem RegFile.get_set_same (f : RegFile) (g : Gpr) (w : Word) : (f.set g w).get g = w := by
  induction f with
  | nil => simp [RegFile.set, RegFile.get]
  | cons e f ih =>
    obtain ⟨n, v⟩ := e
    by_cases h : g = n
    · simp [RegFile.set, RegFile.get, h]
    · simp [RegFile.set, RegFile.get, h, ih]

theorem RegFile.get_set_other (f : RegFile) {g g' : Gpr} (w : Word) (h : g' ≠ g) : (f.set g w).get g' = f.get g' := by
  induction f with
  | nil => simp [RegFile.set, RegFile.get, h]
  | cons e f ih =>
    obtain ⟨n, v⟩ := e
    by_cases hn : g = n
    · subst hn
      simp [RegFile.set, RegFile.get, h]
    · simp [RegFile.set, RegFile.get, hn, ih]

theorem RegFile.get_set (f : RegFile) (g g' : Gpr) (w : Word) :
    (f.set g w).get g' = if g' = g then w else f.get g' := by
  split
  · next h => rw [h, RegFile.get_set_same]
  · next h => exact RegFile.get_set_other f w h

/-- Writing a register the file has adds none. -/
theorem RegFile.names_set {f : RegFile} {g : Gpr} (w : Word) (h : g ∈ f.names) : (f.set g w).names = f.names := by
  induction f with
  | nil => simp [RegFile.names] at h
  | cons e f ih =>
    obtain ⟨n, v⟩ := e
    by_cases hn : g = n
    · simp [RegFile.set, RegFile.names, hn]
    · have hg : g ∈ RegFile.names f := by simpa [RegFile.names, hn] using h
      simpa [RegFile.set, RegFile.names, hn] using ih hg

theorem RegFile.set_set (f : RegFile) (g : Gpr) (v w : Word) : (f.set g v).set g w = f.set g w := by
  induction f with
  | nil => simp [RegFile.set]
  | cons e f ih =>
    obtain ⟨n, u⟩ := e
    by_cases hn : g = n
    · simp [RegFile.set, hn]
    · simp [RegFile.set, hn, ih]

@[simp] theorem RegFile.names_zero (names : List Gpr) : (RegFile.zero names).names = names := by
  simp [RegFile.zero, RegFile.names, Function.comp_def]

@[simp] theorem RegFile.get_zero (names : List Gpr) (g : Gpr) : (RegFile.zero names).get g = 0 := by
  induction names with
  | nil => rfl
  | cons n ns ih =>
    simp only [RegFile.zero, List.map_cons, RegFile.get]
    split
    · rfl
    · exact ih

@[simp] theorem State.reg_setReg_same (s : State) (g : Gpr) (w : Word) : (s.setReg g w).reg g = w :=
  RegFile.get_set_same _ _ _

theorem State.reg_setReg_other (s : State) {g g' : Gpr} (w : Word) (h : g' ≠ g) : (s.setReg g w).reg g' = s.reg g' :=
  RegFile.get_set_other _ _ h

theorem State.names_setReg {s : State} {g : Gpr} (w : Word) (h : g ∈ s.gpr.names) :
    (s.setReg g w).gpr.names = s.gpr.names := RegFile.names_set w h

@[simp] theorem State.accWord_setAcc (s : State) (v : Int) : (s.setAcc v).accWord = toWord v :=
  RegFile.get_set_same _ _ _

/-! ### setReg -/

@[simp] theorem State.setReg_config (s : State) (g : Gpr) (w : Word) : (s.setReg g w).config = s.config := rfl
@[simp] theorem State.setReg_gpr (s : State) (g : Gpr) (w : Word) : (s.setReg g w).gpr = s.gpr.set g w := rfl
@[simp] theorem State.setReg_rip (s : State) (g : Gpr) (w : Word) : (s.setReg g w).rip = s.rip := rfl
@[simp] theorem State.setReg_mar (s : State) (g : Gpr) (w : Word) : (s.setReg g w).mar = s.mar := rfl
@[simp] theorem State.setReg_mbr (s : State) (g : Gpr) (w : Word) : (s.setReg g w).mbr = s.mbr := rfl
@[simp] theorem State.setReg_cir (s : State) (g : Gpr) (w : Word) : (s.setReg g w).cir = s.cir := rfl
@[simp] theorem State.setReg_flags (s : State) (g : Gpr) (w : Word) : (s.setReg g w).flags = s.flags := rfl
@[simp] theorem State.setReg_cs (s : State) (g : Gpr) (w : Word) : (s.setReg g w).cs = s.cs := rfl
@[simp] theorem State.setReg_ds (s : State) (g : Gpr) (w : Word) : (s.setReg g w).ds = s.ds := rfl
@[simp] theorem State.setReg_stall (s : State) (g : Gpr) (w : Word) : (s.setReg g w).stall = s.stall := rfl
@[simp] theorem State.setReg_running (s : State) (g : Gpr) (w : Word) : (s.setReg g w).running = s.running := rfl
@[simp] theorem State.setReg_cycle (s : State) (g : Gpr) (w : Word) : (s.setReg g w).cycle = s.cycle := rfl
@[simp] theorem State.setReg_predicted (s : State) (g : Gpr) (w : Word) : (s.setReg g w).predicted = s.predicted := rfl
@[simp] theorem State.setReg_mispredicted (s : State) (g : Gpr) (w : Word) : (s.setReg g w).mispredicted = s.mispredicted := rfl
@[simp] theorem State.setReg_output (s : State) (g : Gpr) (w : Word) : (s.setReg g w).output = s.output := rfl
@[simp] theorem State.setReg_rob (s : State) (g : Gpr) (w : Word) : (s.setReg g w).rob = s.rob := rfl
@[simp] theorem State.setReg_pb (s : State) (g : Gpr) (w : Word) : (s.setReg g w).pb = s.pb := rfl
@[simp] theorem State.setReg_predictor (s : State) (g : Gpr) (w : Word) : (s.setReg g w).predictor = s.predictor := rfl
@[simp] theorem State.setReg_mem (s : State) (g : Gpr) (w : Word) : (s.setReg g w).mem = s.mem := rfl
@[simp] theorem State.setReg_lastFetched (s : State) (g : Gpr) (w : Word) : (s.setReg g w).lastFetched = s.lastFetched := rfl
@[simp] theorem State.setReg_lastDecoded (s : State) (g : Gpr) (w : Word) : (s.setReg g w).lastDecoded = s.lastDecoded := rfl
@[simp] theorem State.setReg_lastExecuted (s : State) (g : Gpr) (w : Word) : (s.setReg g w).lastExecuted = s.lastExecuted := rfl

/-! ### regWrite -/

@[simp] theorem State.regWrite_config (s : State) (t : RegTok) (v : Int) : (s.regWrite t v).config = s.config := rfl
@[simp] theorem State.regWrite_gpr (s : State) (t : RegTok) (v : Int) : (s.regWrite t v).gpr = s.gpr.set t.reg (writeView t.suffix.view (s.reg t.reg) v) := rfl
@[simp] theorem State.regWrite_rip (s : State) (t : RegTok) (v : Int) : (s.regWrite t v).rip = s.rip := rfl
@[simp] theorem State.regWrite_mar (s : State) (t : RegTok) (v : Int) : (s.regWrite t v).mar = s.mar := rfl
@[simp] theorem State.regWrite_mbr (s : State) (t : RegTok) (v : Int) : (s.regWrite t v).mbr = s.mbr := rfl
@[simp] theorem State.regWrite_cir (s : State) (t : RegTok) (v : Int) : (s.regWrite t v).cir = s.cir := rfl
@[simp] theorem State.regWrite_flags (s : State) (t : RegTok) (v : Int) : (s.regWrite t v).flags = s.flags := rfl
@[simp] theorem State.regWrite_cs (s : State) (t : RegTok) (v : Int) : (s.regWrite t v).cs = s.cs := rfl
@[simp] theorem State.regWrite_ds (s : State) (t : RegTok) (v : Int) : (s.regWrite t v).ds = s.ds := rfl
@[simp] theorem State.regWrite_stall (s : State) (t : RegTok) (v : Int) : (s.regWrite t v).stall = s.stall := rfl
@[simp] theorem State.regWrite_running (s : State) (t : RegTok) (v : Int) : (s.regWrite t v).running = s.running := rfl
@[simp] theorem State.regWrite_cycle (s : State) (t : RegTok) (v : Int) : (s.regWrite t v).cycle = s.cycle := rfl
@[simp] theorem State.regWrite_predicted (s : State) (t : RegTok) (v : Int) : (s.regWrite t v).predicted = s.predicted := rfl
@[simp] theorem State.regWrite_mispredicted (s : State) (t : RegTok) (v : Int) : (s.regWrite t v).mispredicted = s.mispredicted := rfl
@[simp] theorem State.regWrite_output (s : State) (t : RegTok) (v : Int) : (s.regWrite t v).output = s.output := rfl
@[simp] theorem State.regWrite_rob (s : State) (t : RegTok) (v : Int) : (s.regWrite t v).rob = s.rob := rfl
@[simp] theorem State.regWrite_pb (s : State) (t : RegTok) (v : Int) : (s.regWrite t v).pb = s.pb := rfl
@[simp] theorem State.regWrite_predictor (s : State) (t : RegTok) (v : Int) : (s.regWrite t v).predictor = s.predictor := rfl
@[simp] theorem State.regWrite_mem (s : State) (t : RegTok) (v : Int) : (s.regWrite t v).mem = s.mem := rfl
@[simp] theorem State.regWrite_lastFetched (s : State) (t : RegTok) (v : Int) : (s.regWrite t v).lastFetched = s.lastFetched := rfl
@[simp] theorem State.regWrite_lastDecoded (s : State) (t : RegTok) (v : Int) : (s.regWrite t v).lastDecoded = s.lastDecoded := rfl
@[simp] theorem State.regWrite_lastExecuted (s : State) (t : RegTok) (v : Int) : (s.regWrite t v).lastExecuted = s.lastExecuted := rfl

/-! ### setAcc -/

@[simp] theorem State.setAcc_config (s : State) (v : Int) : (s.setAcc v).config = s.config := rfl
@[simp] theorem State.setAcc_gpr (s : State) (v : Int) : (s.setAcc v).gpr = s.gpr.set s.config.acc (toWord v) := rfl
@[simp] theorem State.setAcc_rip (s : State) (v : Int) : (s.setAcc v).rip = s.rip := rfl
@[simp] theorem State.setAcc_mar (s : State) (v : Int) : (s.setAcc v).mar = s.mar := rfl
@[simp] theorem State.setAcc_mbr (s : State) (v : Int) : (s.setAcc v).mbr = s.mbr := rfl
@[simp] theorem State.setAcc_cir (s : State) (v : Int) : (s.setAcc v).cir = s.cir := rfl
@[simp] theorem State.setAcc_flags (s : State) (v : Int) : (s.setAcc v).flags = s.flags := rfl
@[simp] theorem State.setAcc_cs (s : State) (v : Int) : (s.setAcc v).cs = s.cs := rfl
@[simp] theorem State.setAcc_ds (s : State) (v : Int) : (s.setAcc v).ds = s.ds := rfl
@[simp] theorem State.setAcc_stall (s : State) (v : Int) : (s.setAcc v).stall = s.stall := rfl
@[simp] theorem State.setAcc_running (s : State) (v : Int) : (s.setAcc v).running = s.running := rfl
@[simp] theorem State.setAcc_cycle (s : State) (v : Int) : (s.setAcc v).cycle = s.cycle := rfl
@[simp] theorem State.setAcc_predicted (s : State) (v : Int) : (s.setAcc v).predicted = s.predicted := rfl
@[simp] theorem State.setAcc_mispredicted (s : State) (v : Int) : (s.setAcc v).mispredicted = s.mispredicted := rfl
@[simp] theorem State.setAcc_output (s : State) (v : Int) : (s.setAcc v).output = s.output := rfl
@[simp] theorem State.setAcc_rob (s : State) (v : Int) : (s.setAcc v).rob = s.rob := rfl
@[simp] theorem State.setAcc_pb (s : State) (v : Int) : (s.setAcc v).pb = s.pb := rfl
@[simp] theorem State.setAcc_predictor (s : State) (v : Int) : (s.setAcc v).predictor = s.predictor := rfl
@[simp] theorem State.setAcc_mem (s : State) (v : Int) : (s.setAcc v).mem = s.mem := rfl
@[simp] theorem State.setAcc_lastFetched (s : State) (v : Int) : (s.setAcc v).lastFetched = s.lastFetched := rfl
@[simp] theorem State.setAcc_lastDecoded (s : State) (v : Int) : (s.setAcc v).lastDecoded = s.lastDecoded := rfl
@[simp] theorem State.setAcc_lastExecuted (s : State) (v : Int) : (s.setAcc v).lastExecuted = s.lastExecuted := rfl

/-! ### setFlags -/

@[simp] theorem State.setFlags_config (s : State) (f : Flags) : (s.setFlags f).config = s.config := rfl
@[simp] theorem State.setFlags_gpr (s : State) (f : Flags) : (s.setFlags f).gpr = s.gpr := rfl
@[simp] theorem State.setFlags_rip (s : State) (f : Flags) : (s.setFlags f).rip = s.rip := rfl
@[simp] theorem State.setFlags_mar (s : State) (f : Flags) : (s.setFlags f).mar = s.mar := rfl
@[simp] theorem State.setFlags_mbr (s : State) (f : Flags) : (s.setFlags f).mbr = s.mbr := rfl
@[simp] theorem State.setFlags_cir (s : State) (f : Flags) : (s.setFlags f).cir = s.cir := rfl
@[simp] theorem State.setFlags_flags (s : State) (f : Flags) : (s.setFlags f).flags = f := rfl
@[simp] theorem State.setFlags_cs (s : State) (f : Flags) : (s.setFlags f).cs = s.cs := rfl
@[simp] theorem State.setFlags_ds (s : State) (f : Flags) : (s.setFlags f).ds = s.ds := rfl
@[simp] theorem State.setFlags_stall (s : State) (f : Flags) : (s.setFlags f).stall = s.stall := rfl
@[simp] theorem State.setFlags_running (s : State) (f : Flags) : (s.setFlags f).running = s.running := rfl
@[simp] theorem State.setFlags_cycle (s : State) (f : Flags) : (s.setFlags f).cycle = s.cycle := rfl
@[simp] theorem State.setFlags_predicted (s : State) (f : Flags) : (s.setFlags f).predicted = s.predicted := rfl
@[simp] theorem State.setFlags_mispredicted (s : State) (f : Flags) : (s.setFlags f).mispredicted = s.mispredicted := rfl
@[simp] theorem State.setFlags_output (s : State) (f : Flags) : (s.setFlags f).output = s.output := rfl
@[simp] theorem State.setFlags_rob (s : State) (f : Flags) : (s.setFlags f).rob = s.rob := rfl
@[simp] theorem State.setFlags_pb (s : State) (f : Flags) : (s.setFlags f).pb = s.pb := rfl
@[simp] theorem State.setFlags_predictor (s : State) (f : Flags) : (s.setFlags f).predictor = s.predictor := rfl
@[simp] theorem State.setFlags_mem (s : State) (f : Flags) : (s.setFlags f).mem = s.mem := rfl
@[simp] theorem State.setFlags_lastFetched (s : State) (f : Flags) : (s.setFlags f).lastFetched = s.lastFetched := rfl
@[simp] theorem State.setFlags_lastDecoded (s : State) (f : Flags) : (s.setFlags f).lastDecoded = s.lastDecoded := rfl
@[simp] theorem State.setFlags_lastExecuted (s : State) (f : Flags) : (s.setFlags f).lastExecuted = s.lastExecuted := rfl

/-! ### emit -/

@[simp] theorem State.emit_config (s : State) (cs : List Content) : (s.emit cs).config = s.config := rfl
@[simp] theorem State.emit_gpr (s : State) (cs : List Content) : (s.emit cs).gpr = s.gpr := rfl
@[simp] theorem State.emit_rip (s : State) (cs : List Content) : (s.emit cs).rip = s.rip := rfl
@[simp] theorem State.emit_mar (s : State) (cs : List Content) : (s.emit cs).mar = s.mar := rfl
@[simp] theorem State.emit_mbr (s : State) (cs : List Content) : (s.emit cs).mbr = s.mbr := rfl
@[simp] theorem State.emit_cir (s : State) (cs : List Content) : (s.emit cs).cir = s.cir := rfl
@[simp] theorem State.emit_flags (s : State) (cs : List Content) : (s.emit cs).flags = s.flags := rfl
@[simp] theorem State.emit_cs (s : State) (cs : List Content) : (s.emit cs).cs = s.cs := rfl
@[simp] theorem State.emit_ds (s : State) (cs : List Content) : (s.emit cs).ds = s.ds := rfl
@[simp] theorem State.emit_stall (s : State) (cs : List Content) : (s.emit cs).stall = s.stall := rfl
@[simp] theorem State.emit_running (s : State) (cs : List Content) : (s.emit cs).running = s.running := rfl
@[simp] theorem State.emit_cycle (s : State) (cs : List Content) : (s.emit cs).cycle = s.cycle := rfl
@[simp] theorem State.emit_predicted (s : State) (cs : List Content) : (s.emit cs).predicted = s.predicted := rfl
@[simp] theorem State.emit_mispredicted (s : State) (cs : List Content) : (s.emit cs).mispredicted = s.mispredicted := rfl
@[simp] theorem State.emit_output (s : State) (cs : List Content) : (s.emit cs).output = s.output ++ cs := rfl
@[simp] theorem State.emit_rob (s : State) (cs : List Content) : (s.emit cs).rob = s.rob := rfl
@[simp] theorem State.emit_pb (s : State) (cs : List Content) : (s.emit cs).pb = s.pb := rfl
@[simp] theorem State.emit_predictor (s : State) (cs : List Content) : (s.emit cs).predictor = s.predictor := rfl
@[simp] theorem State.emit_mem (s : State) (cs : List Content) : (s.emit cs).mem = s.mem := rfl
@[simp] theorem State.emit_lastFetched (s : State) (cs : List Content) : (s.emit cs).lastFetched = s.lastFetched := rfl
@[simp] theorem State.emit_lastDecoded (s : State) (cs : List Content) : (s.emit cs).lastDecoded = s.lastDecoded := rfl
@[simp] theorem State.emit_lastExecuted (s : State) (cs : List Content) : (s.emit cs).lastExecuted = s.lastExecuted := rfl

/-! ### recordPredicted -/

@[simp] theorem State.recordPredicted_config (s : State) : s.recordPredicted.config = s.config := rfl
@[simp] theorem State.recordPredicted_gpr (s : State) : s.recordPredicted.gpr = s.gpr := rfl
@[simp] theorem State.recordPredicted_rip (s : State) : s.recordPredicted.rip = s.rip := rfl
@[simp] theorem State.recordPredicted_mar (s : State) : s.recordPredicted.mar = s.mar := rfl
@[simp] theorem State.recordPredicted_mbr (s : State) : s.recordPredicted.mbr = s.mbr := rfl
@[simp] theorem State.recordPredicted_cir (s : State) : s.recordPredicted.cir = s.cir := rfl
@[simp] theorem State.recordPredicted_flags (s : State) : s.recordPredicted.flags = s.flags := rfl
@[simp] theorem State.recordPredicted_cs (s : State) : s.recordPredicted.cs = s.cs := rfl
@[simp] theorem State.recordPredicted_ds (s : State) : s.recordPredicted.ds = s.ds := rfl
@[simp] theorem State.recordPredicted_stall (s : State) : s.recordPredicted.stall = s.stall := rfl
@[simp] theorem State.recordPredicted_running (s : State) : s.recordPredicted.running = s.running := rfl
@[simp] theorem State.recordPredicted_cycle (s : State) : s.recordPredicted.cycle = s.cycle := rfl
@[simp] theorem State.recordPredicted_predicted (s : State) : s.recordPredicted.predicted = s.predicted ++ [s.cycleNumber] := rfl
@[simp] theorem State.recordPredicted_mispredicted (s : State) : s.recordPredicted.mispredicted = s.mispredicted := rfl
@[simp] theorem State.recordPredicted_output (s : State) : s.recordPredicted.output = s.output := rfl
@[simp] theorem State.recordPredicted_rob (s : State) : s.recordPredicted.rob = s.rob := rfl
@[simp] theorem State.recordPredicted_pb (s : State) : s.recordPredicted.pb = s.pb := rfl
@[simp] theorem State.recordPredicted_predictor (s : State) : s.recordPredicted.predictor = s.predictor := rfl
@[simp] theorem State.recordPredicted_mem (s : State) : s.recordPredicted.mem = s.mem := rfl
@[simp] theorem State.recordPredicted_lastFetched (s : State) : s.recordPredicted.lastFetched = s.lastFetched := rfl
@[simp] theorem State.recordPredicted_lastDecoded (s : State) : s.recordPredicted.lastDecoded = s.lastDecoded := rfl
@[simp] theorem State.recordPredicted_lastExecuted (s : State) : s.recordPredicted.lastExecuted = s.lastExecuted := rfl

/-! ### recordMispredicted -/

@[simp] theorem State.recordMispredicted_config (s : State) : s.recordMispredicted.config = s.config := rfl
@[simp] theorem State.recordMispredicted_gpr (s : State) : s.recordMispredicted.gpr = s.gpr := rfl
@[simp] theorem State.recordMispredicted_rip (s : State) : s.recordMispredicted.rip = s.rip := rfl
@[simp] theorem State.recordMispredicted_mar (s : State) : s.recordMispredicted.mar = s.mar := rfl
@[simp] theorem State.recordMispredicted_mbr (s : State) : s.recordMispredicted.mbr = s.mbr := rfl
@[simp] theorem State.recordMispredicted_cir (s : State) : s.recordMispredicted.cir = s.cir := rfl
@[simp] theorem State.recordMispredicted_flags (s : State) : s.recordMispredicted.flags = s.flags := rfl
@[simp] theorem State.recordMispredicted_cs (s : State) : s.recordMispredicted.cs = s.cs := rfl
@[simp] theorem State.recordMispredicted_ds (s : State) : s.recordMispredicted.ds = s.ds := rfl
@[simp] theorem State.recordMispredicted_stall (s : State) : s.recordMispredicted.stall = s.stall := rfl
@[simp] theorem State.recordMispredicted_running (s : State) : s.recordMispredicted.running = s.running := rfl
@[simp] theorem State.recordMispredicted_cycle (s : State) : s.recordMispredicted.cycle = s.cycle := rfl
@[simp] theorem State.recordMispredicted_predicted (s : State) : s.recordMispredicted.predicted = s.predicted := rfl
@[simp] theorem State.recordMispredicted_mispredicted (s : State) : s.recordMispredicted.mispredicted = s.mispredicted ++ [s.cycleNumber] := rfl
@[simp] theorem State.recordMispredicted_output (s : State) : s.recordMispredicted.output = s.output := rfl
@[simp] theorem State.recordMispredicted_rob (s : State) : s.recordMispredicted.rob = s.rob := rfl
@[simp] theorem State.recordMispredicted_pb (s : State) : s.recordMispredicted.pb = s.pb := rfl
@[simp] theorem State.recordMispredicted_predictor (s : State) : s.recordMispredicted.predictor = s.predictor := rfl
@[simp] theorem State.recordMispredicted_mem (s : State) : s.recordMispredicted.mem = s.mem := rfl
@[simp] theorem State.recordMispredicted_lastFetched (s : State) : s.recordMispredicted.lastFetched = s.lastFetched := rfl
@[simp] theorem State.recordMispredicted_lastDecoded (s : State) : s.recordMispredicted.lastDecoded = s.lastDecoded := rfl
@[simp] theorem State.recordMispredicted_lastExecuted (s : State) : s.recordMispredicted.lastExecuted = s.lastExecuted := rfl

/-! ### tick -/

@[simp] theorem State.tick_config (s : State) : s.tick.config = s.config := rfl
@[simp] theorem State.tick_gpr (s : State) : s.tick.gpr = s.gpr := rfl
@[simp] theorem State.tick_rip (s : State) : s.tick.rip = s.rip := rfl
@[simp] theorem State.tick_mar (s : State) : s.tick.mar = s.mar := rfl
@[simp] theorem State.tick_mbr (s : State) : s.tick.mbr = s.mbr := rfl
@[simp] theorem State.tick_cir (s : State) : s.tick.cir = s.cir := rfl
@[simp] theorem State.tick_flags (s : State) : s.tick.flags = s.flags := rfl
@[simp] theorem State.tick_cs (s : State) : s.tick.cs = s.cs := rfl
@[simp] theorem State.tick_ds (s : State) : s.tick.ds = s.ds := rfl
@[simp] theorem State.tick_stall (s : State) : s.tick.stall = s.stall := rfl
@[simp] theorem State.tick_running (s : State) : s.tick.running = s.running := rfl
@[simp] theorem State.tick_cycle (s : State) : s.tick.cycle = s.cycle + 1 := rfl
@[simp] theorem State.tick_predicted (s : State) : s.tick.predicted = s.predicted := rfl
@[simp] theorem State.tick_mispredicted (s : State) : s.tick.mispredicted = s.mispredicted := rfl
@[simp] theorem State.tick_output (s : State) : s.tick.output = s.output := rfl
@[simp] theorem State.tick_rob (s : State) : s.tick.rob = s.rob := rfl
@[simp] theorem State.tick_pb (s : State) : s.tick.pb = s.pb := rfl
@[simp] theorem State.tick_predictor (s : State) : s.tick.predictor = s.predictor := rfl
@[simp] theorem State.tick_mem (s : State) : s.tick.mem = s.mem := rfl
@[simp] theorem State.tick_lastFetched (s : State) : s.tick.lastFetched = s.lastFetched := rfl
@[simp] theorem State.tick_lastDecoded (s : State) : s.tick.lastDecoded = s.lastDecoded := rfl
@[simp] theorem State.tick_lastExecuted (s : State) : s.tick.lastExecuted = s.lastExecuted := rfl

/-! ### setPredictor -/

@[simp] theorem State.setPredictor_config (s : State) (p : PredictorState) : (s.setPredictor p).config = s.config := rfl
@[simp] theorem State.setPredictor_gpr (s : State) (p : PredictorState) : (s.setPredictor p).gpr = s.gpr := rfl
@[simp] theorem State.setPredictor_rip (s : State) (p : PredictorState) : (s.setPredictor p).rip = s.rip := rfl
@[simp] theorem State.setPredictor_mar (s : State) (p : PredictorState) : (s.setPredictor p).mar = s.mar := rfl
@[simp] theorem State.setPredictor_mbr (s : State) (p : PredictorState) : (s.setPredictor p).mbr = s.mbr := rfl
@[simp] theorem State.setPredictor_cir (s : State) (p : PredictorState) : (s.setPredictor p).cir = s.cir := rfl
@[simp] theorem State.setPredictor_flags (s : State) (p : PredictorState) : (s.setPredictor p).flags = s.flags := rfl
@[simp] theorem State.setPredictor_cs (s : State) (p : PredictorState) : (s.setPredictor p).cs = s.cs := rfl
@[simp] theorem State.setPredictor_ds (s : State) (p : PredictorState) : (s.setPredictor p).ds = s.ds := rfl
@[simp] theorem State.setPredictor_stall (s : State) (p : PredictorState) : (s.setPredictor p).stall = s.stall := rfl
@[simp] theorem State.setPredictor_running (s : State) (p : PredictorState) : (s.setPredictor p).running = s.running := rfl
@[simp] theorem State.setPredictor_cycle (s : State) (p : PredictorState) : (s.setPredictor p).cycle = s.cycle := rfl
@[simp] theorem State.setPredictor_predicted (s : State) (p : PredictorState) : (s.setPredictor p).predicted = s.predicted := rfl
@[simp] theorem State.setPredictor_mispredicted (s : State) (p : PredictorState) : (s.setPredictor p).mispredicted = s.mispredicted := rfl
@[simp] theorem State.setPredictor_output (s : State) (p : PredictorState) : (s.setPredictor p).output = s.output := rfl
@[simp] theorem State.setPredictor_rob (s : State) (p : PredictorState) : (s.setPredictor p).rob = s.rob := rfl
@[simp] theorem State.setPredictor_pb (s : State) (p : PredictorState) : (s.setPredictor p).pb = s.pb := rfl
@[simp] theorem State.setPredictor_predictor (s : State) (p : PredictorState) : (s.setPredictor p).predictor = p := rfl
@[simp] theorem State.setPredictor_mem (s : State) (p : PredictorState) : (s.setPredictor p).mem = s.mem := rfl
@[simp] theorem State.setPredictor_lastFetched (s : State) (p : PredictorState) : (s.setPredictor p).lastFetched = s.lastFetched := rfl
@[simp] theorem State.setPredictor_lastDecoded (s : State) (p : PredictorState) : (s.setPredictor p).lastDecoded = s.lastDecoded := rfl
@[simp] theorem State.setPredictor_lastExecuted (s : State) (p : PredictorState) : (s.setPredictor p).lastExecuted = s.lastExecuted := rfl

/-! ### setStallFetch -/

@[simp] theorem State.setStallFetch_config (s : State) (b : Bool) : (s.setStallFetch b).config = s.config := rfl
@[simp] theorem State.setStallFetch_gpr (s : State) (b : Bool) : (s.setStallFetch b).gpr = s.gpr := rfl
@[simp] theorem State.setStallFetch_rip (s : State) (b : Bool) : (s.setStallFetch b).rip = s.rip := rfl
@[simp] theorem State.setStallFetch_mar (s : State) (b : Bool) : (s.setStallFetch b).mar = s.mar := rfl
@[simp] theorem State.setStallFetch_mbr (s : State) (b : Bool) : (s.setStallFetch b).mbr = s.mbr := rfl
@[simp] theorem State.setStallFetch_cir (s : State) (b : Bool) : (s.setStallFetch b).cir = s.cir := rfl
@[simp] theorem State.setStallFetch_flags (s : State) (b : Bool) : (s.setStallFetch b).flags = s.flags := rfl
@[simp] theorem State.setStallFetch_cs (s : State) (b : Bool) : (s.setStallFetch b).cs = s.cs := rfl
@[simp] theorem State.setStallFetch_ds (s : State) (b : Bool) : (s.setStallFetch b).ds = s.ds := rfl
@[simp] theorem State.setStallFetch_stall (s : State) (b : Bool) : (s.setStallFetch b).stall = ⟨b, s.stall.decode, s.stall.execute⟩ := rfl
@[simp] theorem State.setStallFetch_running (s : State) (b : Bool) : (s.setStallFetch b).running = s.running := rfl
@[simp] theorem State.setStallFetch_cycle (s : State) (b : Bool) : (s.setStallFetch b).cycle = s.cycle := rfl
@[simp] theorem State.setStallFetch_predicted (s : State) (b : Bool) : (s.setStallFetch b).predicted = s.predicted := rfl
@[simp] theorem State.setStallFetch_mispredicted (s : State) (b : Bool) : (s.setStallFetch b).mispredicted = s.mispredicted := rfl
@[simp] theorem State.setStallFetch_output (s : State) (b : Bool) : (s.setStallFetch b).output = s.output := rfl
@[simp] theorem State.setStallFetch_rob (s : State) (b : Bool) : (s.setStallFetch b).rob = s.rob := rfl
@[simp] theorem State.setStallFetch_pb (s : State) (b : Bool) : (s.setStallFetch b).pb = s.pb := rfl
@[simp] theorem State.setStallFetch_predictor (s : State) (b : Bool) : (s.setStallFetch b).predictor = s.predictor := rfl
@[simp] theorem State.setStallFetch_mem (s : State) (b : Bool) : (s.setStallFetch b).mem = s.mem := rfl
@[simp] theorem State.setStallFetch_lastFetched (s : State) (b : Bool) : (s.setStallFetch b).lastFetched = s.lastFetched := rfl
@[simp] theorem State.setStallFetch_lastDecoded (s : State) (b : Bool) : (s.setStallFetch b).lastDecoded = s.lastDecoded := rfl
@[simp] theorem State.setStallFetch_lastExecuted (s : State) (b : Bool) : (s.setStallFetch b).lastExecuted = s.lastExecuted := rfl

/-! ### flush -/

@[simp] theorem State.flush_config (s : State) : s.flush.config = s.config := rfl
@[simp] theorem State.flush_gpr (s : State) : s.flush.gpr = s.gpr := rfl
@[simp] theorem State.flush_rip (s : State) : s.flush.rip = s.rip := rfl
@[simp] theorem State.flush_mar (s : State) : s.flush.mar = 0 := rfl
@[simp] theorem State.flush_mbr (s : State) : s.flush.mbr = none := rfl
@[simp] theorem State.flush_cir (s : State) : s.flush.cir = none := rfl
@[simp] theorem State.flush_flags (s : State) : s.flush.flags = s.flags := rfl
@[simp] theorem State.flush_cs (s : State) : s.flush.cs = s.cs := rfl
@[simp] theorem State.flush_ds (s : State) : s.flush.ds = s.ds := rfl
@[simp] theorem State.flush_stall (s : State) : s.flush.stall = ⟨s.config.flushStallsFetch || s.stall.fetch, true, true⟩ := rfl
@[simp] theorem State.flush_running (s : State) : s.flush.running = s.running := rfl
@[simp] theorem State.flush_cycle (s : State) : s.flush.cycle = s.cycle := rfl
@[simp] theorem State.flush_predicted (s : State) : s.flush.predicted = s.predicted := rfl
@[simp] theorem State.flush_mispredicted (s : State) : s.flush.mispredicted = s.mispredicted := rfl
@[simp] theorem State.flush_output (s : State) : s.flush.output = s.output := rfl
@[simp] theorem State.flush_rob (s : State) : s.flush.rob = [] := rfl
@[simp] theorem State.flush_pb (s : State) : s.flush.pb = [] := rfl
@[simp] theorem State.flush_predictor (s : State) : s.flush.predictor = s.predictor := rfl
@[simp] theorem State.flush_mem (s : State) : s.flush.mem = s.mem := rfl
@[simp] theorem State.flush_lastFetched (s : State) : s.flush.lastFetched = s.lastFetched := rfl
@[simp] theorem State.flush_lastDecoded (s : State) : s.flush.lastDecoded = s.lastDecoded := rfl
@[simp] theorem State.flush_lastExecuted (s : State) : s.flush.lastExecuted = s.lastExecuted := rfl

/-! ### redirect -/

@[simp] theorem State.redirect_config (s : State) (n : Int) : (s.redirect n).config = s.config := rfl
@[simp] theorem State.redirect_gpr (s : State) (n : Int) : (s.redirect n).gpr = s.gpr := rfl
@[simp] theorem State.redirect_rip (s : State) (n : Int) : (s.redirect n).rip = toWord n := rfl
@[simp] theorem State.redirect_mar (s : State) (n : Int) : (s.redirect n).mar = 0 := rfl
@[simp] theorem State.redirect_mbr (s : State) (n : Int) : (s.redirect n).mbr = none := rfl
@[simp] theorem State.redirect_cir (s : State) (n : Int) : (s.redirect n).cir = none := rfl
@[simp] theorem State.redirect_flags (s : State) (n : Int) : (s.redirect n).flags = s.flags := rfl
@[simp] theorem State.redirect_cs (s : State) (n : Int) : (s.redirect n).cs = s.cs := rfl
@[simp] theorem State.redirect_ds (s : State) (n : Int) : (s.redirect n).ds = s.ds := rfl
@[simp] theorem State.redirect_stall (s : State) (n : Int) : (s.redirect n).stall = ⟨s.config.flushStallsFetch || s.stall.fetch, true, true⟩ := rfl
@[simp] theorem State.redirect_running (s : State) (n : Int) : (s.redirect n).running = s.running := rfl
@[simp] theorem State.redirect_cycle (s : State) (n : Int) : (s.redirect n).cycle = s.cycle := rfl
@[simp] theorem State.redirect_predicted (s : State) (n : Int) : (s.redirect n).predicted = s.predicted := rfl
@[simp] theorem State.redirect_mispredicted (s : State) (n : Int) : (s.redirect n).mispredicted = s.mispredicted ++ [s.cycleNumber] := rfl
@[simp] theorem State.redirect_output (s : State) (n : Int) : (s.redirect n).output = s.output := rfl
@[simp] theorem State.redirect_rob (s : State) (n : Int) : (s.redirect n).rob = [] := rfl
@[simp] theorem State.redirect_pb (s : State) (n : Int) : (s.redirect n).pb = [] := rfl
@[simp] theorem State.redirect_predictor (s : State) (n : Int) : (s.redirect n).predictor = s.predictor := rfl
@[simp] theorem State.redirect_mem (s : State) (n : Int) : (s.redirect n).mem = s.mem := rfl
@[simp] theorem State.redirect_lastFetched (s : State) (n : Int) : (s.redirect n).lastFetched = s.lastFetched := rfl
@[simp] theorem State.redirect_lastDecoded (s : State) (n : Int) : (s.redirect n).lastDecoded = s.lastDecoded := rfl
@[simp] theorem State.redirect_lastExecuted (s : State) (n : Int) : (s.redirect n).lastExecuted = s.lastExecuted := rfl

/-! ### halt -/

@[simp] theorem State.halt_config (s : State) : s.halt.config = s.config := rfl
@[simp] theorem State.halt_gpr (s : State) : s.halt.gpr = s.gpr := rfl
@[simp] theorem State.halt_rip (s : State) : s.halt.rip = s.rip := rfl
@[simp] theorem State.halt_mar (s : State) : s.halt.mar = 0 := rfl
@[simp] theorem State.halt_mbr (s : State) : s.halt.mbr = none := rfl
@[simp] theorem State.halt_cir (s : State) : s.halt.cir = none := rfl
@[simp] theorem State.halt_flags (s : State) : s.halt.flags = s.flags := rfl
@[simp] theorem State.halt_cs (s : State) : s.halt.cs = s.cs := rfl
@[simp] theorem State.halt_ds (s : State) : s.halt.ds = s.ds := rfl
@[simp] theorem State.halt_stall (s : State) : s.halt.stall = ⟨s.config.flushStallsFetch || s.stall.fetch, true, true⟩ := rfl
@[simp] theorem State.halt_running (s : State) : s.halt.running = false := rfl
@[simp] theorem State.halt_cycle (s : State) : s.halt.cycle = s.cycle := rfl
@[simp] theorem State.halt_predicted (s : State) : s.halt.predicted = s.predicted := rfl
@[simp] theorem State.halt_mispredicted (s : State) : s.halt.mispredicted = s.mispredicted := rfl
@[simp] theorem State.halt_output (s : State) : s.halt.output = s.output := rfl
@[simp] theorem State.halt_rob (s : State) : s.halt.rob = [] := rfl
@[simp] theorem State.halt_pb (s : State) : s.halt.pb = [] := rfl
@[simp] theorem State.halt_predictor (s : State) : s.halt.predictor = s.predictor := rfl
@[simp] theorem State.halt_mem (s : State) : s.halt.mem = s.mem := rfl
@[simp] theorem State.halt_lastFetched (s : State) : s.halt.lastFetched = s.lastFetched := rfl
@[simp] theorem State.halt_lastDecoded (s : State) : s.halt.lastDecoded = s.lastDecoded := rfl
@[simp] theorem State.halt_lastExecuted (s : State) : s.halt.lastExecuted = s.lastExecuted := rfl

/-! ### popHeads -/

@[simp] theorem State.popHeads_config (s : State) : s.popHeads.config = s.config := rfl
@[simp] theorem State.popHeads_gpr (s : State) : s.popHeads.gpr = s.gpr := rfl
@[simp] theorem State.popHeads_rip (s : State) : s.popHeads.rip = s.rip := rfl
@[simp] theorem State.popHeads_mar (s : State) : s.popHeads.mar = s.mar := rfl
@[simp] theorem State.popHeads_mbr (s : State) : s.popHeads.mbr = s.mbr := rfl
@[simp] theorem State.popHeads_cir (s : State) : s.popHeads.cir = s.cir := rfl
@[simp] theorem State.popHeads_flags (s : State) : s.popHeads.flags = s.flags := rfl
@[simp] theorem State.popHeads_cs (s : State) : s.popHeads.cs = s.cs := rfl
@[simp] theorem State.popHeads_ds (s : State) : s.popHeads.ds = s.ds := rfl
@[simp] theorem State.popHeads_stall (s : State) : s.popHeads.stall = s.stall := rfl
@[simp] theorem State.popHeads_running (s : State) : s.popHeads.running = s.running := rfl
@[simp] theorem State.popHeads_cycle (s : State) : s.popHeads.cycle = s.cycle := rfl
@[simp] theorem State.popHeads_predicted (s : State) : s.popHeads.predicted = s.predicted := rfl
@[simp] theorem State.popHeads_mispredicted (s : State) : s.popHeads.mispredicted = s.mispredicted := rfl
@[simp] theorem State.popHeads_output (s : State) : s.popHeads.output = s.output := rfl
@[simp] theorem State.popHeads_rob (s : State) : s.popHeads.rob = circRemove s.rob := rfl
@[simp] theorem State.popHeads_pb (s : State) : s.popHeads.pb = circRemove s.pb := rfl
@[simp] theorem State.popHeads_predictor (s : State) : s.popHeads.predictor = s.predictor := rfl
@[simp] theorem State.popHeads_mem (s : State) : s.popHeads.mem = s.mem := rfl
@[simp] theorem State.popHeads_lastFetched (s : State) : s.popHeads.lastFetched = s.lastFetched := rfl
@[simp] theorem State.popHeads_lastDecoded (s : State) : s.popHeads.lastDecoded = s.lastDecoded := rfl
@[simp] theorem State.popHeads_lastExecuted (s : State) : s.popHeads.lastExecuted = s.lastExecuted := rfl

/-! ### traceExecuted -/

@[simp] theorem State.traceExecuted_config (s : State) (u : MicroOp) : (s.traceExecuted u).config = s.config := rfl
@[simp] theorem State.traceExecuted_gpr (s : State) (u : MicroOp) : (s.traceExecuted u).gpr = s.gpr := rfl
@[simp] theorem State.traceExecuted_rip (s : State) (u : MicroOp) : (s.traceExecuted u).rip = s.rip := rfl
@[simp] theorem State.traceExecuted_mar (s : State) (u : MicroOp) : (s.traceExecuted u).mar = s.mar := rfl
@[simp] theorem State.traceExecuted_mbr (s : State) (u : MicroOp) : (s.traceExecuted u).mbr = s.mbr := rfl
@[simp] theorem State.traceExecuted_cir (s : State) (u : MicroOp) : (s.traceExecuted u).cir = s.cir := rfl
@[simp] theorem State.traceExecuted_flags (s : State) (u : MicroOp) : (s.traceExecuted u).flags = s.flags := rfl
@[simp] theorem State.traceExecuted_cs (s : State) (u : MicroOp) : (s.traceExecuted u).cs = s.cs := rfl
@[simp] theorem State.traceExecuted_ds (s : State) (u : MicroOp) : (s.traceExecuted u).ds = s.ds := rfl
@[simp] theorem State.traceExecuted_stall (s : State) (u : MicroOp) : (s.traceExecuted u).stall = s.stall := rfl
@[simp] theorem State.traceExecuted_running (s : State) (u : MicroOp) : (s.traceExecuted u).running = s.running := rfl
@[simp] theorem State.traceExecuted_cycle (s : State) (u : MicroOp) : (s.traceExecuted u).cycle = s.cycle := rfl
@[simp] theorem State.traceExecuted_predicted (s : State) (u : MicroOp) : (s.traceExecuted u).predicted = s.predicted := rfl
@[simp] theorem State.traceExecuted_mispredicted (s : State) (u : MicroOp) : (s.traceExecuted u).mispredicted = s.mispredicted := rfl
@[simp] theorem State.traceExecuted_output (s : State) (u : MicroOp) : (s.traceExecuted u).output = s.output := rfl
@[simp] theorem State.traceExecuted_rob (s : State) (u : MicroOp) : (s.traceExecuted u).rob = s.rob := rfl
@[simp] theorem State.traceExecuted_pb (s : State) (u : MicroOp) : (s.traceExecuted u).pb = s.pb := rfl
@[simp] theorem State.traceExecuted_predictor (s : State) (u : MicroOp) : (s.traceExecuted u).predictor = s.predictor := rfl
@[simp] theorem State.traceExecuted_mem (s : State) (u : MicroOp) : (s.traceExecuted u).mem = s.mem := rfl
@[simp] theorem State.traceExecuted_lastFetched (s : State) (u : MicroOp) : (s.traceExecuted u).lastFetched = s.lastFetched := rfl
@[simp] theorem State.traceExecuted_lastDecoded (s : State) (u : MicroOp) : (s.traceExecuted u).lastDecoded = s.lastDecoded := rfl
@[simp] theorem State.traceExecuted_lastExecuted (s : State) (u : MicroOp) : (s.traceExecuted u).lastExecuted = some u := rfl

/-! ### latchFetch -/

@[simp] theorem latchFetch_config (s : State) (pc predicted : Int) (tok : Token) : (latchFetch s pc predicted tok).config = s.config := rfl
@[simp] theorem latchFetch_gpr (s : State) (pc predicted : Int) (tok : Token) : (latchFetch s pc predicted tok).gpr = s.gpr := rfl
@[simp] theorem latchFetch_rip (s : State) (pc predicted : Int) (tok : Token) : (latchFetch s pc predicted tok).rip = toWord predicted := rfl
@[simp] theorem latchFetch_mar (s : State) (pc predicted : Int) (tok : Token) : (latchFetch s pc predicted tok).mar = toWord predicted := rfl
@[simp] theorem latchFetch_mbr (s : State) (pc predicted : Int) (tok : Token) : (latchFetch s pc predicted tok).mbr = some tok := rfl
@[simp] theorem latchFetch_cir (s : State) (pc predicted : Int) (tok : Token) : (latchFetch s pc predicted tok).cir = some ⟨tok, decide (predicted ≠ pc + 1)⟩ := rfl
@[simp] theorem latchFetch_flags (s : State) (pc predicted : Int) (tok : Token) : (latchFetch s pc predicted tok).flags = s.flags := rfl
@[simp] theorem latchFetch_cs (s : State) (pc predicted : Int) (tok : Token) : (latchFetch s pc predicted tok).cs = s.cs := rfl
@[simp] theorem latchFetch_ds (s : State) (pc predicted : Int) (tok : Token) : (latchFetch s pc predicted tok).ds = s.ds := rfl
@[simp] theorem latchFetch_stall (s : State) (pc predicted : Int) (tok : Token) : (latchFetch s pc predicted tok).stall = ⟨s.stall.fetch, false, s.stall.execute⟩ := rfl
@[simp] theorem latchFetch_running (s : State) (pc predicted : Int) (tok : Token) : (latchFetch s pc predicted tok).running = s.running := rfl
@[simp] theorem latchFetch_cycle (s : State) (pc predicted : Int) (tok : Token) : (latchFetch s pc predicted tok).cycle = s.cycle := rfl
@[simp] theorem latchFetch_predicted (s : State) (pc predicted : Int) (tok : Token) : (latchFetch s pc predicted tok).predicted = s.predicted := rfl
@[simp] theorem latchFetch_mispredicted (s : State) (pc predicted : Int) (tok : Token) : (latchFetch s pc predicted tok).mispredicted = s.mispredicted := rfl
@[simp] theorem latchFetch_output (s : State) (pc predicted : Int) (tok : Token) : (latchFetch s pc predicted tok).output = s.output := rfl
@[simp] theorem latchFetch_rob (s : State) (pc predicted : Int) (tok : Token) : (latchFetch s pc predicted tok).rob = s.rob := rfl
@[simp] theorem latchFetch_pb (s : State) (pc predicted : Int) (tok : Token) : (latchFetch s pc predicted tok).pb = s.pb := rfl
@[simp] theorem latchFetch_predictor (s : State) (pc predicted : Int) (tok : Token) : (latchFetch s pc predicted tok).predictor = s.predictor := rfl
@[simp] theorem latchFetch_mem (s : State) (pc predicted : Int) (tok : Token) : (latchFetch s pc predicted tok).mem = s.mem := rfl
@[simp] theorem latchFetch_lastFetched (s : State) (pc predicted : Int) (tok : Token) : (latchFetch s pc predicted tok).lastFetched = some tok := rfl
@[simp] theorem latchFetch_lastDecoded (s : State) (pc predicted : Int) (tok : Token) : (latchFetch s pc predicted tok).lastDecoded = s.lastDecoded := rfl
@[simp] theorem latchFetch_lastExecuted (s : State) (pc predicted : Int) (tok : Token) : (latchFetch s pc predicted tok).lastExecuted = s.lastExecuted := rfl

end Sys2Proof.Machine
end

