-- ==== Sys2Proof/Laws/Ops.lean ====
section
/-! SUPPORT. One lemma per shared operation: everything that follows when it answers a value. -/

namespace Sys2Proof.Machine

@[simp] theorem andThen_next {α β : Type} (a : α) (f : α → Result β) : andThen (.next a) f = f a := rfl
@[simp] theorem andThen_fault {α β : Type} (r : Fault) (f : α → Result β) : andThen (.fault r : Result α) f = .fault r := rfl
@[simp] theorem andThen_refused {α β : Type} (r : Refusal) (f : α → Result β) :
    andThen (.refused r : Result α) f = .refused r := rfl

theorem andThen_eq_next {α β : Type} {x : Result α} {f : α → Result β} {b : β} :
    andThen x f = .next b ↔ ∃ a, x = .next a ∧ f a = .next b := by
  cases x <;> simp

theorem andThen_eq_fault {α β : Type} {x : Result α} {f : α → Result β} {r : Fault} :
    andThen x f = .fault r ↔ x = .fault r ∨ ∃ a, x = .next a ∧ f a = .fault r := by
  cases x <;> simp

theorem andThen_eq_refused {α β : Type} {x : Result α} {f : α → Result β} {r : Refusal} :
    andThen x f = .refused r ↔ x = .refused r ∨ ∃ a, x = .next a ∧ f a = .refused r := by
  cases x <;> simp

theorem andThen_assoc {α β γ : Type} (x : Result α) (f : α → Result β) (g : β → Result γ) :
    andThen (andThen x f) g = andThen x fun a => andThen (f a) g := by cases x <;> rfl

/-! ### Memory reads -/

theorem inRange_iff {s : State} {a : Int} : s.inRange a = true ↔ 0 ≤ a ∧ a < s.config.memSize := by
  unfold State.inRange
  rw [Bool.and_eq_true, decide_eq_true_iff, decide_eq_true_iff]

theorem memRead_eq_next {s : State} {a : Int} {c : Option Content} :
    memRead s a = .next c ↔ s.inRange a = true ∧ s.mem.read a.toNat = c := by
  unfold memRead; split <;> simp_all

theorem readWritten_eq_next {s : State} {a : Int} {c : Content} :
    readWritten s a = .next c ↔ s.inRange a = true ∧ s.mem.read a.toNat = some c := by
  simp only [readWritten, andThen_eq_next, memRead_eq_next]
  constructor
  · rintro ⟨d, ⟨hr, rfl⟩, h⟩
    cases hd : s.mem.read a.toNat <;> simp_all
  · rintro ⟨hr, h⟩
    exact ⟨some c, ⟨hr, h⟩, rfl⟩

theorem readNumber_eq_next {s : State} {a : Int} {v : Int} :
    readNumber s a = .next v ↔ s.inRange a = true ∧ s.mem.read a.toNat = some (.number v) := by
  simp only [readNumber, andThen_eq_next, readWritten_eq_next]
  constructor
  · rintro ⟨c, ⟨hr, hc⟩, h⟩
    cases c <;> simp_all
  · rintro ⟨hr, h⟩
    exact ⟨.number v, ⟨hr, h⟩, rfl⟩

theorem readToken_eq_next {s : State} {a : Int} {t : Token} :
    readToken s a = .next t ↔ s.inRange a = true ∧ s.mem.read a.toNat = some (.token t) := by
  simp only [readToken, andThen_eq_next, readWritten_eq_next]
  constructor
  · rintro ⟨c, ⟨hr, hc⟩, h⟩
    cases c <;> simp_all
  · rintro ⟨hr, h⟩
    exact ⟨.token t, ⟨hr, h⟩, rfl⟩

/-- A run of cells that is read has one content a cell, each read in order. -/
theorem readCells_eq_next {s : State} {n : Nat} {a : Int} {cs : List Content} (h : readCells s n a = .next cs) :
    cs.length = n ∧ ∀ i (hi : i < cs.length), readWritten s (a + i) = .next cs[i] := by
  induction n generalizing a cs with
  | zero => cases h; simp
  | succ n ih =>
    obtain ⟨c, hc, h⟩ := andThen_eq_next.1 h
    obtain ⟨ds, hd, h⟩ := andThen_eq_next.1 h
    cases h
    obtain ⟨hl, hi⟩ := ih hd
    refine ⟨by simp [hl], fun i hlt => ?_⟩
    cases i with
    | zero => simpa using hc
    | succ i =>
      have := hi i (by simpa using hlt)
      simp only [List.getElem_cons_succ]
      rw [← this]
      congr 1
      push_cast
      ring

/-! ### Operands -/

theorem operandVal_mem_eq_next {s : State} {e : Token} {v : Int} :
    operandVal s (.mem e) = .next v ↔
      ∃ a, generate e s.gpr = .next a ∧ s.inRange a = true ∧ s.mem.read a.toNat = some (.number v) := by
  simp only [operandVal, andThen_eq_next, readNumber_eq_next]

/-- What a store through a destination does: a register view is written, or the cell at the AGU's address. -/
theorem storeDest_eq_next {s t : State} {v : Int} {d : Dest} (h : storeDest s v d = .next t) :
    (∃ r, d = .reg r ∧ t = s.regWrite r v) ∨
    (∃ e a, d = .mem e ∧ generate e s.gpr = .next a ∧ s.inRange a = true ∧
      t = { s with mem := s.mem.write a.toNat (.number v) }) := by
  cases d with
  | reg r => cases h; exact .inl ⟨r, rfl, rfl⟩
  | mem e =>
    obtain ⟨a, ha, h⟩ := andThen_eq_next.1 h
    obtain ⟨hr, rfl⟩ := memWrite_eq_next h
    exact .inr ⟨e, a, rfl, ha, hr, rfl⟩

/-! ### Buffers -/

theorem circAdd_eq_next {α : Type} {cap : Nat} {items items' : List α} {x : α} :
    circAdd cap items x = .next items' ↔ items.length < cap ∧ items' = items ++ [x] := by
  unfold circAdd; split <;> simp_all [eq_comm]

theorem circAddAll_eq_next {α : Type} {cap : Nat} {items items' xs : List α}
    (h : circAddAll cap items xs = .next items') :
    items' = items ++ xs ∧ (xs = [] ∨ items.length + xs.length ≤ cap) := by
  induction xs generalizing items with
  | nil => cases h; simp
  | cons x xs ih =>
    obtain ⟨j, hj, h⟩ := andThen_eq_next.1 h
    obtain ⟨hlt, rfl⟩ := circAdd_eq_next.1 hj
    obtain ⟨rfl, hc⟩ := ih h
    refine ⟨by simp, .inr ?_⟩
    rcases hc with rfl | hc
    · simpa using hlt
    · simp at hc ⊢; omega

theorem circAddAll_of_le {α : Type} {cap : Nat} {items xs : List α} (h : items.length + xs.length ≤ cap) :
    circAddAll cap items xs = .next (items ++ xs) := by
  induction xs generalizing items with
  | nil => simp [circAddAll]
  | cons x xs ih =>
    simp only [List.length_cons] at h
    rw [circAddAll, circAdd, if_pos (by omega), andThen_next, ih (by simp; omega)]
    simp

theorem circGet_eq_next {α : Type} {items : List α} {n : Nat} {x : α} :
    circGet items n = .next x ↔ items[n]? = some x := by
  unfold circGet; cases items[n]? <;> simp

theorem circGet_ne_fault {α : Type} {items : List α} {n : Nat} {r : Fault} : circGet items n ≠ .fault r := by
  unfold circGet; cases items[n]? <;> simp

theorem tableAdd_eq_next {α : Type} {h : HashFn} {keyOf : α → Int} {slots slots' : List (Option α)} {x : α}
    (hn : tableAdd h keyOf slots x = .next slots') :
    ∃ j, j ∈ probes h slots.length (keyOf x) ∧ slotAt slots j = none ∧ slots' = slots.set j (some x) := by
  unfold tableAdd at hn
  split at hn
  · next j hj =>
    refine ⟨j, List.mem_of_find?_eq_some hj, ?_, by injection hn with hn; exact hn.symm⟩
    simpa using List.find?_some hj
  · cases hn

/-- A bulk insert keeps the capacity and every entry it finds (R127, R132). -/
theorem tableAddAll_eq_next {α : Type} {h : HashFn} {keyOf : α → Int} {slots slots' : List (Option α)} {xs : List α}
    (hn : tableAddAll h keyOf slots xs = .next slots') :
    slots'.length = slots.length ∧ ∀ j y, slotAt slots j = some y → slotAt slots' j = some y := by
  induction xs generalizing slots with
  | nil => cases hn; exact ⟨rfl, fun _ _ hy => hy⟩
  | cons x xs ih =>
    obtain ⟨t, ht, hn⟩ := andThen_eq_next.1 hn
    obtain ⟨i, _, hi, rfl⟩ := tableAdd_eq_next ht
    obtain ⟨hl, hk⟩ := ih hn
    refine ⟨by simpa using hl, fun j y hy => hk j y ?_⟩
    have hne : i ≠ j := fun e => by simp [e, hy] at hi
    simpa [slotAt, List.getElem?_set_ne hne] using hy

theorem tableUpdate_eq_next {α : Type} {h : HashFn} {keyOf : α → Int} {slots slots' : List (Option α)} {x : α}
    (hn : tableUpdate h keyOf slots x = .next slots') :
    ∃ j, findSlot keyOf slots (keyOf x) (probes h slots.length (keyOf x)) = some j ∧ slots' = slots.set j (some x) := by
  unfold tableUpdate at hn
  split at hn
  · next j hj => exact ⟨j, hj, by injection hn with hn; exact hn.symm⟩
  · cases hn

/-- A found slot is on the probe sequence and holds an entry with the key. -/
theorem findSlot_eq_some {α : Type} {keyOf : α → Int} {slots : List (Option α)} {k : Int} {js : List Nat} {j : Nat}
    (h : findSlot keyOf slots k js = some j) : j ∈ js ∧ ∃ x, slotAt slots j = some x ∧ keyOf x = k := by
  induction js with
  | nil => cases h
  | cons i js ih =>
    unfold findSlot at h
    split at h
    · cases h
    · next x hx =>
      split at h
      · next hk => cases h; exact ⟨List.mem_cons_self, x, hx, hk⟩
      · obtain ⟨hm, hx⟩ := ih h; exact ⟨List.mem_cons_of_mem _ hm, hx⟩

theorem tableGet_eq_some_key {α : Type} {h : HashFn} {keyOf : α → Int} {slots : List (Option α)} {k : Int} {x : α}
    (hg : tableGet h keyOf slots k = some x) : keyOf x = k := by
  unfold tableGet at hg
  obtain ⟨j, hj, hx⟩ := Option.bind_eq_some_iff.1 hg
  obtain ⟨_, y, hy, hk⟩ := findSlot_eq_some hj
  rw [hx] at hy
  cases hy
  exact hk

/-! ### Predictor -/

/-- What `predict` does: a pass-through, or the variant's prediction (R172, R173). -/
theorem predict_eq_next {c : Config} {p p' : PredictorState} {pc n : Int} (h : predict c p pc = .next (n, p')) :
    (p.stalled = true ∧ n = pc ∧ p' = { p with stalled := false }) ∨
    (p.stalled = false ∧ predictVariant c p pc = .next (n, p')) := by
  unfold predict at h
  cases hs : p.stalled
  · rw [hs] at h; exact .inr ⟨rfl, by simpa using h⟩
  · rw [hs] at h
    simp at h
    exact .inl ⟨rfl, h.1.symm, h.2.symm⟩

/-- What the push of a prediction does to the history (R184). -/
theorem pushPrediction_eq_next {c : Config} {p p' : PredictorState} {b : Bool}
    (h : pushPrediction c p b = .next p') :
    ∃ e, p.ghr[0]? = some e ∧ p.obq.length < c.obqCapacity ∧
      p' = { p with obq := p.obq ++ [e], ghr := p.ghr.tail ++ [b] } := by
  obtain ⟨e, he, h⟩ := andThen_eq_next.1 h
  obtain ⟨q, hq, h⟩ := andThen_eq_next.1 h
  obtain ⟨hlt, rfl⟩ := circAdd_eq_next.1 hq
  cases h
  exact ⟨e, circGet_eq_next.1 he, hlt, rfl⟩

/-- Every variant's prediction keeps the tables; gshare's alone touches the history, by one push (R174 to R184). -/
theorem predictVariant_eq_next {c : Config} {p p' : PredictorState} {pc n : Int}
    (h : predictVariant c p pc = .next (n, p')) :
    p' = p ∨ (c.predictor = .gshare ∧ ∃ b, pushPrediction c p b = .next p') := by
  unfold predictVariant at h
  split at h
  · cases h; exact .inl rfl
  · unfold predictTaken at h; split at h <;> cases h <;> exact .inl rfl
  · unfold predictDirection at h
    repeat' split at h
    all_goals cases h; exact .inl rfl
  · unfold predictDirection at h
    repeat' split at h
    all_goals cases h; exact .inl rfl
  · next hc =>
    unfold predictGshare at h
    split at h
    · cases h; exact .inl rfl
    · obtain ⟨q, hq, h⟩ := andThen_eq_next.1 h
      cases h
      exact .inr ⟨hc, _, hq⟩

/-- What the insertion into the BTB does (R177). -/
theorem btbInsert_eq_next {c : Config} {p p' : PredictorState} {a d : Int} (h : btbInsert c p a d = .next p') :
    p' = p ∨ ∃ t, tableAdd c.hash BtbEntry.key p.btb ⟨a, d⟩ = .next t ∧ p' = { p with btb := t } := by
  unfold btbInsert at h
  split at h
  · cases h; exact .inl rfl
  · obtain ⟨t, ht, h⟩ := andThen_eq_next.1 h
    cases h; exact .inr ⟨t, ht, rfl⟩

/-- What the insertion or rewriting in the BTB does (R186). -/
theorem btbPut_eq_next {c : Config} {p p' : PredictorState} {a d : Int} (h : btbPut c p a d = .next p') :
    ∃ t, (tableUpdate c.hash BtbEntry.key p.btb ⟨a, d⟩ = .next t ∨ tableAdd c.hash BtbEntry.key p.btb ⟨a, d⟩ = .next t) ∧
      p' = { p with btb := t } := by
  unfold btbPut at h
  split at h <;> obtain ⟨t, ht, h⟩ := andThen_eq_next.1 h <;> cases h
  · exact ⟨t, .inl ht, rfl⟩
  · exact ⟨t, .inr ht, rfl⟩

/-- What the insertion or rewriting in the direction buffer does (R179, R181, R186). -/
theorem dirPut_eq_next {c : Config} {p p' : PredictorState} {k : Int} {v : Certainty} (h : dirPut c p k v = .next p') :
    ∃ t, (tableUpdate c.hash DirEntry.key p.dir ⟨k, v⟩ = .next t ∨ tableAdd c.hash DirEntry.key p.dir ⟨k, v⟩ = .next t) ∧
      p' = { p with dir := t } := by
  unfold dirPut at h
  split at h <;> obtain ⟨t, ht, h⟩ := andThen_eq_next.1 h <;> cases h
  · exact ⟨t, .inl ht, rfl⟩
  · exact ⟨t, .inr ht, rfl⟩

/-! ### Issue, resolution, stages -/

/-- What issuing a group does: the whole group enters both buffers, or Fetch is stalled and nothing else (R227, R228). -/
theorem issue_eq_next {g : List MicroOp} {s t : State} (h : issue g s = .next t) :
    ∃ f, s.cir = some f ∧
      ((hasRoom s g = true ∧
        t = { s with
          rob := s.rob ++ g.map (robEntry (sint64 s.rip) f.speculative)
          pb := s.pb ++ g
          lastDecoded := g
          stall := ⟨false, s.stall.decode, false⟩ }) ∨
       (hasRoom s g = false ∧ t = s.setStallFetch true)) := by
  unfold issue at h
  split at h
  · cases h
  · next f hf =>
    refine ⟨f, hf, ?_⟩
    split at h
    · next hr =>
      obtain ⟨r, hr', h⟩ := andThen_eq_next.1 h
      obtain ⟨p, hp, h⟩ := andThen_eq_next.1 h
      obtain ⟨rfl, _⟩ := circAddAll_eq_next hr'
      obtain ⟨rfl, _⟩ := circAddAll_eq_next hp
      cases h
      exact .inl ⟨hr, rfl⟩
    · next hr => cases h; exact .inr ⟨by simpa using hr, rfl⟩

theorem hasRoom_iff {s : State} {g : List MicroOp} :
    hasRoom s g = true ↔
      g.length ≤ s.config.robCapacity - s.rob.length ∧ g.length ≤ s.config.pbCapacity - s.pb.length := by
  unfold hasRoom circFree
  rw [Bool.and_eq_true, decide_eq_true_iff, decide_eq_true_iff]

/-- A group that has room is inserted whole: `insertGroup` meets no full buffer (R227, R334). -/
theorem insertGroup_of_room {g : List MicroOp} {s : State} {loc : Int} {b : Bool} (hg : g ≠ []) (h : hasRoom s g = true) :
    insertGroup s loc b g = .next { s with
      rob := s.rob ++ g.map (robEntry loc b)
      pb := s.pb ++ g
      lastDecoded := g
      stall := ⟨false, s.stall.decode, false⟩ } := by
  rw [hasRoom_iff] at h
  have hl : 0 < g.length := List.length_pos_iff.2 hg
  rw [insertGroup, circAddAll_of_le (by simp; omega), andThen_next, circAddAll_of_le (by omega), andThen_next]

/-- What resolving a branch does (R267). -/
theorem resolveBranch_eq_next {s t : State} {loc dest : Int} {met succ : Bool}
    (h : resolveBranch s loc dest met succ = .next t) :
    ∃ p, update s.config s.predictor loc dest met = .next p ∧
      t = (settleBranch s loc dest met succ).setPredictor (stallAfter s.config met succ p) := by
  obtain ⟨p, hp, h⟩ := andThen_eq_next.1 h
  cases h
  exact ⟨p, hp, rfl⟩

/-- What Execute does: nothing on an empty buffer, else the head micro-op, dispatched and removed (R260, R274). -/
theorem executeStage_eq_next {s t : State} (h : executeStage s = .next t) :
    (s.pb = [] ∧ t = s) ∨
    (∃ u us r rs t', s.pb = u :: us ∧ s.rob = r :: rs ∧ exec u.toInstr (s.traceExecuted u) = .next t' ∧ t = t'.popHeads) := by
  unfold executeStage at h
  split at h
  · next hp => cases h; exact .inl ⟨hp, rfl⟩
  · obtain ⟨u, hu, h⟩ := andThen_eq_next.1 h
    obtain ⟨r, hr, h⟩ := andThen_eq_next.1 h
    obtain ⟨t', ht, h⟩ := andThen_eq_next.1 h
    cases h
    rw [circGet_eq_next] at hu hr
    obtain ⟨us, hus⟩ : ∃ us, s.pb = u :: us := by
      cases hp : s.pb with
      | nil => simp [hp] at hu
      | cons x xs => simp [hp] at hu; exact ⟨xs, by rw [hu]⟩
    obtain ⟨rs, hrs⟩ : ∃ rs, s.rob = r :: rs := by
      cases hp : s.rob with
      | nil => simp [hp] at hr
      | cons x xs => simp [hp] at hr; exact ⟨xs, by rw [hr]⟩
    exact .inr ⟨u, us, r, rs, t', hus, hrs, ht, rfl⟩

/-- What Decode does: the instruction of the token in `cir` (R226). -/
theorem decodeStage_eq_next {s t : State} (h : decodeStage s = .next t) :
    ∃ f i, s.cir = some f ∧ decode s.config.gprNames f.token = .ok i ∧ exec i s = .next t := by
  unfold decodeStage at h
  split at h
  · cases h
  · next f hf =>
    split at h
    · cases h
    · next i hi => exact ⟨f, i, hf, hi, h⟩

/-- What Fetch does (R223). -/
theorem fetchStage_eq_next {s t : State} (h : fetchStage s = .next t) :
    ∃ n p tok, predict s.config s.predictor s.ripb = .next (n, p) ∧ fetchToken s n = .next tok ∧
      t = latchFetch (s.setPredictor p) s.ripb n tok := by
  obtain ⟨⟨n, p⟩, hp, h⟩ := andThen_eq_next.1 h
  obtain ⟨tok, ht, h⟩ := andThen_eq_next.1 h
  cases h
  exact ⟨n, p, tok, hp, ht, rfl⟩

/-- What a cycle does: the three turns, one after the other (R221). -/
theorem cycle_eq_next {s t : State} (h : cycle s = .next t) :
    ∃ s1 s2, executeTurn s.tick = .next s1 ∧ decodeTurn s1 = .next s2 ∧ fetchTurn s2 = .next t := by
  obtain ⟨s1, h1, h⟩ := andThen_eq_next.1 h
  obtain ⟨s2, h2, h⟩ := andThen_eq_next.1 h
  exact ⟨s1, s2, h1, h2, h⟩

/-- What a step does: a cycle while Running, nothing once Halted (R220, R231). -/
theorem step_eq_next {s t : State} (h : step s = .next t) :
    (s.running = true ∧ cycle s = .next t) ∨ (s.running = false ∧ t = s) := by
  unfold step runOnce at h
  cases hr : s.running
  · rw [hr] at h; simp at h; exact .inr ⟨rfl, h.symm⟩
  · rw [hr] at h; exact .inl ⟨rfl, by simpa using h⟩

end Sys2Proof.Machine
end

