-- ==== Sys2Proof/Laws/PerInstr.lean ====
section
/-! SUPPORT. Statements per instruction of the opcode table. -/

namespace Sys2Proof.Laws.GroupShape

/-- A macro-instruction, and no micro-op, has a group; the group has 1 to 3 micro-ops, all of one width (R100, R101). -/
def Statement (i : Instr) : Prop :=
  ((Machine.groupOf i).isSome = i.toMicroOp.isNone) ∧
  ∀ g, Machine.groupOf i = some g → 1 ≤ g.length ∧ g.length ≤ 3 ∧ ∀ u ∈ g, ∀ v ∈ g, u.width = v.width

theorem of_group {i : Instr} {g : List MicroOp} {w : Width} (hi : Machine.groupOf i = some g) (hm : i.toMicroOp = none)
    (h1 : 1 ≤ g.length) (h3 : g.length ≤ 3) (hw : ∀ u ∈ g, u.width = w) : Statement i := by
  refine ⟨by rw [hi, hm]; rfl, fun g' hg => ?_⟩
  rw [hi] at hg
  cases hg
  exact ⟨h1, h3, fun u hu v hv => (hw u hu).trans (hw v hv).symm⟩

theorem of_micro {i : Instr} {u : MicroOp} (hi : Machine.groupOf i = none) (hm : i.toMicroOp = some u) : Statement i :=
  ⟨by rw [hi, hm]; rfl, fun g hg => by rw [hi] at hg; cases hg⟩

theorem of_jump {i : Instr} {c : Cond} {a : Operand} (hi : Machine.groupOf i = some (Machine.jumpGroup c a))
    (hm : i.toMicroOp = none) : Statement i :=
  of_group (w := Machine.operandWidth [a]) hi hm (by simp [Machine.jumpGroup]) (by simp [Machine.jumpGroup])
    (by simp [Machine.jumpGroup, MicroOp.width])

theorem mov (a : Dest) (b : Operand) : Statement (.mov a b) :=
  of_group (w := Machine.operandWidth [a.toOperand, b]) rfl rfl (by simp) (by simp) (by simp [MicroOp.width])
theorem jmp (a : Operand) : Statement (.jmp a) := of_jump (c := .mp) rfl rfl
theorem je (a : Operand) : Statement (.je a) := of_jump (c := .e) rfl rfl
theorem jne (a : Operand) : Statement (.jne a) := of_jump (c := .ne) rfl rfl
theorem jg (a : Operand) : Statement (.jg a) := of_jump (c := .g) rfl rfl
theorem jl (a : Operand) : Statement (.jl a) := of_jump (c := .l) rfl rfl
theorem jge (a : Operand) : Statement (.jge a) := of_jump (c := .ge) rfl rfl
theorem jle (a : Operand) : Statement (.jle a) := of_jump (c := .le) rfl rfl
theorem inc (a : Dest) : Statement (.inc a) :=
  of_group (w := Machine.operandWidth [a.toOperand]) rfl rfl (by simp) (by simp) (by simp [MicroOp.width])
theorem dec (a : Dest) : Statement (.dec a) :=
  of_group (w := Machine.operandWidth [a.toOperand]) rfl rfl (by simp) (by simp) (by simp [MicroOp.width])
theorem cmp (a b : Operand) : Statement (.cmp a b) :=
  of_group (w := Machine.operandWidth [a, b]) rfl rfl (by simp) (by simp) (by simp [MicroOp.width])
theorem syscall : Statement .syscall :=
  of_group (w := .eight) rfl rfl (by simp) (by simp) (by simp [MicroOp.width, Machine.operandWidth])
theorem noop : Statement .noop :=
  of_group (w := .eight) rfl rfl (by simp) (by simp) (by simp [MicroOp.width, Machine.operandWidth])
theorem microLoad (a : Operand) (w : Width) : Statement (.microLoad a w) := of_micro rfl rfl
theorem microSto (a : Dest) (w : Width) : Statement (.microSto a w) := of_micro rfl rfl
theorem microAdd (a : Operand) (w : Width) : Statement (.microAdd a w) := of_micro rfl rfl
theorem microSub (a : Operand) (w : Width) : Statement (.microSub a w) := of_micro rfl rfl
theorem microCmp (a : Operand) (w : Width) : Statement (.microCmp a w) := of_micro rfl rfl
theorem microJmp (c : Cond) (w : Width) : Statement (.microJmp c w) := of_micro rfl rfl
theorem microSyscall (w : Width) : Statement (.microSyscall w) := of_micro rfl rfl
theorem microNoop (w : Width) : Statement (.microNoop w) := of_micro rfl rfl

end Sys2Proof.Laws.GroupShape
end

