-- ==== Sys2Proof/Tests/Slice0.lean ====
section
/-! SUPPORT. Tests: what WellFormed refuses, the decoding of written-out texts, one-step tests whose expected results are
those of 95_test_vectors.md or of a rule's examples, and for every statement with hypotheses a state and operands that
meet them. -/

namespace Sys2Proof.Tests

open Sys2Proof Sys2Proof.Machine

/-! ### Helpers -/

/-- The answer is a next state of which `p` holds. -/
def nextAnd {α : Type} (x : Result α) (p : α → Bool) : Bool :=
  match x with
  | .next a => p a
  | .fault _ => false
  | .refused _ => false

/-- The answer is this fatal error. -/
def faultIs {α : Type} (x : Result α) (f : Fault) : Bool :=
  match x with
  | .next _ => false
  | .fault g => g == f
  | .refused _ => false

/-- The answer is this refusal. -/
def refusedIs {α : Type} (x : Result α) (r : Refusal) : Bool :=
  match x with
  | .next _ => false
  | .fault _ => false
  | .refused q => q == r

/-- The sixteen default register names. -/
def x86 : List Gpr := Config.default.gprNames

def rax : Gpr := "rax".toList
def rbx : Gpr := "rbx".toList
def rcx : Gpr := "rcx".toList
def rdx : Gpr := "rdx".toList
def rsi : Gpr := "rsi".toList
def r8 : Gpr := "r8".toList
def r15 : Gpr := "r15".toList

/-- Another core's register names: the three R7 asks for, one of its own and a hidden accumulator (R25). -/
def small : List Gpr := [rcx, "t0".toList, rbx, rax, "hid".toList]

/-- A core with these names. -/
def smallCore : Config :=
  { Config.default with gprNames := small, acc := "hid".toList, sysWriteBufReg := rbx, sysWriteLenReg := "t0".toList }

/-- A register token without a suffix. -/
def r64 (g : Gpr) : RegTok := ⟨g, .none⟩

/-- The core with the default parameters and nothing loaded. -/
def bare : State := State.unloaded Config.default

/-- Some cells: a token at 2, Numbers at 7, 9, 10 and 63. -/
def cells : State :=
  { bare with
    mem := [(2, .token "mov rbx 5".toList), (7, .number 41), (9, .number 72), (10, .number 105), (63, .number 7)] }

/-- The state with the group of a token string at the head of both buffers, its location 4. -/
def holding (tok : String) (s : State) : State :=
  match decode x86 tok.toList with
  | .ok i =>
    { s with
      pb := (groupOf i).getD []
      rob := ((groupOf i).getD []).map (robEntry 4 false) }
  | .error _ => s

/-- The default parameters with another predictor, its two tables of `n` slots. -/
def built (k : PredictorKind) (n : Nat) : Config :=
  { Config.default with predictor := k, btbCapacity := n, dirCapacity := n }

/-- A branch at 5 with target 3 in flight behind no other micro-op, an `inc rbx` fetched behind it from `loc` with the tag
`spec`; the branch target buffer has its one slot taken by `(5, 3)`. -/
def branching (k : PredictorKind) (c : Cond) (loc : Int) (spec : Bool) : State :=
  { State.unloaded (built k 1) with
    rip := toWord loc
    ds := 9
    cycle := 19
    gpr := (RegFile.zero x86).set rax 3
    mem := [(3, .token "inc rbx".toList), (6, .token "noop".toList)]
    stall := ⟨false, false, false⟩
    cir := some ⟨"inc rbx".toList, spec⟩
    pb := [.jmp c .eight, .load (.reg (r64 rbx)) .eight]
    rob := [⟨.JMP, 5, false⟩, ⟨.LOAD, loc, spec⟩]
    predictor := ⟨false, [some ⟨5, 3⟩], [none], [false, false, false, false], []⟩ }

/-! ### What WellFormed refuses -/

theorem test_wf_refuses_immediate_too_big : (Instr.mov (.reg (r64 rbx)) (.imm 9223372036854775808)).wf x86 = false := by
  decide
theorem test_wf_refuses_immediate_too_small : (Instr.jmp (.imm (-9223372036854775809))).wf x86 = false := by decide
theorem test_wf_refuses_no_opening_bracket : (Instr.inc (.mem "8]".toList)).wf x86 = false := by decide
theorem test_wf_refuses_no_closing_bracket : (Instr.dec (.mem "[8".toList)).wf x86 = false := by decide
theorem test_wf_refuses_blank_in_memory_text : (Instr.cmp (.mem "[rbx +5]".toList) (.imm 1)).wf x86 = false := by decide
theorem test_wf_refuses_comma_in_memory_text : (Instr.jmp (.mem "[rcx,1]".toList)).wf x86 = false := by decide
theorem test_wf_refuses_internal_register : (Instr.inc (.reg (r64 "rip".toList))).wf x86 = false := by decide
theorem test_wf_refuses_register_of_another_core : (Instr.microLoad (.reg (r64 r8)) .eight).wf small = false := by decide
theorem test_wf_refuses_in_every_operand : (Instr.cmp (.imm 1) (.mem "[8\t]".toList)).wf x86 = false := by decide
theorem test_wf_refuses_in_a_slot : (Instr.microSto (.mem "8".toList) .one).wf x86 = false := by decide
theorem test_wf_accepts_the_ends_of_the_range :
    (Instr.cmp (.imm 9223372036854775807) (.imm (-9223372036854775808))).wf x86 = true := by decide

/-- R7's constraints on the names: a name with a suffix letter behind it, a name of an internal register, a role given to
no general register. -/
theorem test_config_wf_names :
    Config.default.wf = true ∧ smallCore.wf = true ∧ gprNamesLexical x86 = true ∧ gprNamesLexical small = true ∧
    ({ smallCore with gprNames := "raxw".toList :: small } : Config).wf = false ∧
    ({ smallCore with gprNames := "cs".toList :: small } : Config).wf = false ∧
    ({ smallCore with gprNames := [rax, rbx, "t0".toList, "hid".toList] } : Config).wf = false ∧
    ({ smallCore with sysWriteLenReg := rdx } : Config).wf = false := by decide

/-! ### Decoding, one written-out text per constructor (R92, R108, V40) -/

theorem test_decode_mov : decode x86 "mov  rbx\t[rcx+1]".toList = .ok (.mov (.reg (r64 rbx)) (.mem "[rcx+1]".toList)) := by
  decide
theorem test_decode_mov_widths : decode x86 "mov raxl rbxw".toList = .ok (.mov (.reg ⟨rax, .l⟩) (.reg ⟨rbx, .w⟩)) := by
  decide
theorem test_decode_jmp : decode x86 "jmp rbx".toList = .ok (.jmp (.reg (r64 rbx))) := by decide
theorem test_decode_je : decode x86 "je 9".toList = .ok (.je (.imm 9)) := by decide
theorem test_decode_jne : decode x86 "jne 3".toList = .ok (.jne (.imm 3)) := by decide
theorem test_decode_jg : decode x86 "jg 11".toList = .ok (.jg (.imm 11)) := by decide
theorem test_decode_jl : decode x86 " jl r8 ".toList = .ok (.jl (.reg (r64 r8))) := by decide
theorem test_decode_jge : decode x86 "jge [9]".toList = .ok (.jge (.mem "[9]".toList)) := by decide
theorem test_decode_jle : decode x86 "jle -1".toList = .ok (.jle (.imm (-1))) := by decide
theorem test_decode_inc : decode x86 "inc rbxw".toList = .ok (.inc (.reg ⟨rbx, .w⟩)) := by decide
theorem test_decode_dec : decode x86 "dec [rbx+2]".toList = .ok (.dec (.mem "[rbx+2]".toList)) := by decide
theorem test_decode_cmp : decode x86 "cmp 3 r15q".toList = .ok (.cmp (.imm 3) (.reg ⟨r15, .q⟩)) := by decide
theorem test_decode_syscall : decode x86 "syscall".toList = .ok .syscall := by decide
theorem test_decode_noop : decode x86 "noop".toList = .ok .noop := by decide
theorem test_slot_load : decodeSlot x86 "LOAD -7".toList .two = some (.load (.imm (-7)) .two) := by decide
theorem test_slot_sto : decodeSlot x86 "STO [8]".toList .four = some (.sto (.mem "[8]".toList) .four) := by decide
theorem test_slot_add : decodeSlot x86 "ADD 1".toList .eight = some (.add (.imm 1) .eight) := by decide
theorem test_slot_sub : decodeSlot x86 "SUB 1".toList .one = some (.sub (.imm 1) .one) := by decide
theorem test_slot_cmp : decodeSlot x86 "CMP rbx".toList .eight = some (.cmp (.reg (r64 rbx)) .eight) := by decide
theorem test_slot_jmp : decodeSlot x86 "JMP le".toList .eight = some (.jmp .le .eight) := by decide
theorem test_slot_syscall : decodeSlot x86 "SYSCALL".toList .eight = some (.syscall .eight) := by decide
theorem test_slot_noop : decodeSlot x86 "NOOP".toList .eight = some (.noop .eight) := by decide

/-- V40: what Decode refuses, and with which error. -/
theorem test_decode_invalid_opcodes :
    ["hlt", "MOV rax 5", "nop", "", "jz 3", "LOAD 5", "STO 5"].all (fun t =>
      decode x86 t.toList == .error (.invalidOpcode t.toList)) = true := by decide
theorem test_decode_malformed_instructions :
    ["mov rax, 5", "mov 5 rbx", "inc 5", "mov rbx", "syscall 1", "jmp", "cmp rbx", "mov rip 5", "mov rbx 0x10",
     "mov rbx +5", "mov rbx 9223372036854775808", "mov rbx [rbx +5]",
     "mov rbx [rcx,1]", "jmp [8,]", "cmp rbx,3 1", "mov eax 5"].all (fun t =>
      decode x86 t.toList == .error (.malformedInstruction t.toList)) = true := by decide
/-- R21, R22: another list of names names other registers. -/
theorem test_decode_other_names :
    decode small "mov t0w rbxq".toList = .ok (.mov (.reg ⟨"t0".toList, .w⟩) (.reg ⟨rbx, .q⟩)) ∧
    decode small "inc r8".toList = .error (.malformedInstruction "inc r8".toList) ∧
    decode x86 "inc t0".toList = .error (.malformedInstruction "inc t0".toList) := by decide
theorem test_decode_bad_expression_passes :
    decode x86 "mov rbx [rip+1]".toList = .ok (.mov (.reg (r64 rbx)) (.mem "[rip+1]".toList)) := by decide

/-- The host's numeric form: `noop` is the bytes 6E 6F 6F 70, the first lowest; `JMP e` is 4A 4D 50 20 65; zeros above
are padding. -/
theorem test_word_noop : decodeTableWord 32 0x706F6F6E = some .noop := by decide
theorem test_word_noop_padded : decodeTableWord 88 0x706F6F6E = some .noop := by decide
theorem test_word_slot : decodeTableWord 40 0x6520504D4A = some (.microJmp .e .eight) := by decide
theorem test_word_none : decodeTableWord 32 0 = none := by decide
theorem test_word_placed_runs :
    nextAnd (step (State.reset.withFetchWord 32 0x706F6F6E)) (fun t => t.pb == [.noop .eight]) = true := by decide

/-! ### Micro-ops (V19 to V28) -/

theorem test_load_narrow_register :
    exec (.microLoad (.reg ⟨rbx, .b⟩) .one) (bare.setReg rbx 0x1234) =
      .next ((bare.setReg rbx 0x1234).setReg rax 0x34) := rfl
/-- R25: a hidden accumulator leaves `rax` alone; the address names a register of this core. -/
theorem test_other_names_run :
    nextAnd (exec (.microLoad (.reg ⟨"t0".toList, .b⟩) .one) ((State.unloaded smallCore).setReg "t0".toList 0x1FF)) (fun t =>
      t.gpr == [(rcx, 0), ("t0".toList, 0x1FF), (rbx, 0), (rax, 0), ("hid".toList, 0xFF)]) = true ∧
    nextAnd (generate "[t0b+1]".toList ((RegFile.zero small).set "t0".toList 0x1FF)) (fun v => v == 256) = true := by decide
theorem test_load_token_cell : faultIs (exec (.microLoad (.mem "[2]".toList) .eight) cells) (.loadNonNumber 2) = true := by
  decide
theorem test_sto_width_narrower_than_view :
    exec (.microSto (.reg ⟨rcx, .l⟩) .two) ((bare.setReg rax 0x12345).setReg rcx 0xFFFFFFFFFFFFFFFF) =
      .next (((bare.setReg rax 0x12345).setReg rcx 0xFFFFFFFFFFFFFFFF).setReg rcx 0xFFFFFFFF00002345) := rfl
theorem test_sto_replaces_the_cell :
    nextAnd (exec (.microSto (.mem "[2]".toList) .four) (cells.setReg rax 0xFFFFFFFFFFFFFFFF))
      (fun t => t.mem.read 2 == some (.number 4294967295)) = true := by decide
theorem test_add_wraps :
    exec (.microAdd (.imm 1) .eight) (bare.setReg rax 0x7FFFFFFFFFFFFFFF) =
      .next (bare.setReg rax 0x8000000000000000) := rfl
theorem test_sub_wraps : exec (.microSub (.imm 1) .eight) bare = .next (bare.setReg rax 0xFFFFFFFFFFFFFFFF) := rfl
theorem test_cmp_is_exact :
    exec (.microCmp (.imm 1) .eight) (bare.setReg rax 0x8000000000000000) =
      .next ((bare.setReg rax 0x8000000000000000).setFlags ⟨true, false, true⟩) := rfl
theorem test_cmp_narrow_operand :
    exec (.microCmp (.reg ⟨rbx, .b⟩) .one) (bare.setReg rbx 0xFF) =
      .next ((bare.setReg rbx 0xFF).setFlags ⟨true, false, false⟩) := rfl
theorem test_noop : exec (.microNoop .eight) cells = .next cells := rfl

/-- V23: a taken `jne` whose successor is not tagged is flushed and redirected. -/
theorem test_jmp_mismatch :
    nextAnd (exec (.microJmp .ne .eight) (branching .alwaysNotTaken .ne 6 false)) (fun t =>
      t.rip == 3 && t.mispredicted == [19] && t.pb == [] && t.stall == ⟨true, true, true⟩) = true := by decide

/-- V26: direction right, target wrong: Predicted, no flush. -/
theorem test_jmp_match_with_a_stale_target :
    nextAnd (exec (.microJmp .l .eight) ((branching .alwaysTaken .l 3 true).setReg rax 9)) (fun t =>
      t.rip == 3 && t.predicted == [19] && t.predictor == ⟨true, [some ⟨5, 3⟩], [none], [false, false, false, false], []⟩)
      = true := by decide

theorem test_syscall_write :
    nextAnd (exec (.microSyscall .eight) (((cells.setReg rax 257).setReg rsi 9).setReg rdx 2)) (fun t =>
      t.output == [.number 72, .number 105]) = true := by decide
theorem test_syscall_past_the_end :
    faultIs (exec (.microSyscall .eight) (((cells.setReg rax 1).setReg rsi 63).setReg rdx 2)) (.memoryOutOfRange 64)
      = true := by decide

/-! ### Macro-instructions: the state after the group has executed (R301 to R313) -/

theorem test_mov_narrow : nextAnd (executeN 2 (holding "mov rbxb 300" bare)) (fun t =>
    t.reg rbx == 44 && t.reg rax == 300) = true := by decide
theorem test_mov_address_after_load : nextAnd (executeN 2 (holding "mov [rax] rbx" (bare.setReg rbx 9))) (fun t =>
    t.mem == [(9, .number 9)]) = true := by decide
theorem test_inc_wraps_in_its_view : nextAnd (executeN 3 (holding "inc rbxb" (bare.setReg rbx 0x1FF))) (fun t =>
    t.reg rbx == 0x100 && t.reg rax == 0x100) = true := by decide
theorem test_dec_wraps_in_its_view : nextAnd (executeN 3 (holding "dec rbxb" (bare.setReg rbx 0x100))) (fun t =>
    t.reg rbx == 0x1FF) = true := by decide
theorem test_inc_memory : nextAnd (executeN 3 (holding "inc [7]" cells)) (fun t =>
    t.mem.read 7 == some (.number 42)) = true := by decide
theorem test_cmp_second_minus_first : nextAnd (executeN 2 (holding "cmp rbx 3" (bare.setReg rbx 5))) (fun t =>
    t.flags == ⟨true, false, false⟩ && t.reg rax == 3) = true := by decide
theorem test_cmp_rax_compares_with_itself : nextAnd (executeN 2 (holding "cmp rax 5" bare)) (fun t =>
    t.flags == ⟨false, true, true⟩) = true := by decide
theorem test_syscall_halts : nextAnd (executeN 1 (holding "syscall" (bare.setReg rax 316))) (fun t =>
    !t.running && t.runResult == some ⟨[], []⟩) = true := by decide
theorem test_noop_takes_a_slot : nextAnd (executeN 1 (holding "noop" cells)) (fun t =>
    t.pb == [] && t.rob == [] && t.lastExecuted == some (.noop .eight)) = true := by decide

/-- The jumps, each with a flag setting that takes it and one that does not; with one slot behind it. -/
def jumpTo (tok : String) (f : Flags) : Bool :=
  nextAnd (executeN 2 { holding tok bare with
    flags := f
    rob := ((holding tok bare).rob ++ [⟨.NOOP, 5, false⟩])
    pb := ((holding tok bare).pb ++ [.noop .eight]) }) (fun t => t.rip == 9 && t.mispredicted == [0])

theorem test_jmp_always : jumpTo "jmp 9" ⟨false, false, false⟩ = true := by decide
theorem test_je_on_zero : jumpTo "je 9" ⟨false, true, false⟩ = true := by decide
theorem test_je_not_on_nonzero : jumpTo "je 9" ⟨true, false, false⟩ = false := by decide
theorem test_jne_on_nonzero : jumpTo "jne 9" ⟨true, false, false⟩ = true := by decide
theorem test_jne_not_on_zero : jumpTo "jne 9" ⟨false, true, false⟩ = false := by decide
theorem test_jg_on_sign : jumpTo "jg 9" ⟨true, false, false⟩ = true := by decide
theorem test_jg_not_on_zero : jumpTo "jg 9" ⟨false, true, false⟩ = false := by decide
theorem test_jl_on_zero : jumpTo "jl 9" ⟨false, true, false⟩ = true := by decide
theorem test_jl_not_on_sign : jumpTo "jl 9" ⟨true, false, false⟩ = false := by decide
theorem test_jge_on_zero : jumpTo "jge 9" ⟨false, true, false⟩ = true := by decide
theorem test_jge_not_without_flags : jumpTo "jge 9" ⟨false, false, false⟩ = false := by decide
theorem test_jle_without_flags : jumpTo "jle 9" ⟨false, false, false⟩ = true := by decide
theorem test_jle_not_on_sign : jumpTo "jle 9" ⟨true, false, false⟩ = false := by decide

/-! ### The units (V3 to V18, V41, V42) -/

theorem test_hash_probes_wrap :
    nextAnd (tableAdd .identity BtbEntry.key [none, some ⟨5, 0⟩, some ⟨9, 0⟩, some ⟨2, 0⟩] ⟨13, 1⟩)
      (fun t => t == [some ⟨13, 1⟩, some ⟨5, 0⟩, some ⟨9, 0⟩, some ⟨2, 0⟩]) = true := by decide
theorem test_hash_bulk_insert_in_list_order :
    nextAnd (tableAddAll .identity DirEntry.key [none, none, none, none]
        [⟨5, .outcome true⟩, ⟨9, .outcome false⟩, ⟨2, .outcome true⟩]) (fun t =>
      t == [none, some ⟨5, .outcome true⟩, some ⟨9, .outcome false⟩, some ⟨2, .outcome true⟩]) = true := by decide
theorem test_hash_negative_key_home : home .identity 4 (-3) = 1 := by decide
theorem test_agu_truncates_toward_zero :
    nextAnd (generate "[rbx/2]".toList ((RegFile.zero x86).set rbx (toWord (-7)))) (fun v => v == -3) = true := by decide
theorem test_agu_malformed :
    ["[]", "[-5]", "[+5]", "[5+]", "[5--3]", "[rbx*-2]", "[(1+2)*3]", "[rip+1]", "[0x10]", "[rbz+1]", "[rbxx]"].all (fun e =>
      faultIs (generate e.toList (RegFile.zero x86)) (.malformedExpression e.toList)) = true := by decide
theorem test_agu_divides_first :
    faultIs (generate "[5/0*0]".toList (RegFile.zero x86)) (.aguDivideByZero "[5/0*0]".toList) = true := by decide
theorem test_gshare_update_confirmed_incorrect :
    nextAnd (updateGshare (built .gshare 16) { PredictorState.reset (built .gshare 16) with
      ghr := [false, true, true, true], obq := [false, false] } 5 3 true) (fun p =>
      p.ghr == [true, false, false, true] && p.obq == [] && dirGet (built .gshare 16) p 1 == some ⟨1, .outcome true⟩)
      = true := by decide
theorem test_fetch_wraps_at_one_byte :
    nextAnd (fetchStage { bare with rip := 300, ds := 9, predictor := { bare.predictor with stalled := false } })
      (fun t => t.rip == 45 && t.cir == some ⟨"noop".toList, false⟩) = true := by decide
theorem test_fetch_number :
    faultIs (fetchStage { cells with rip := 7, ds := 9 }) (.fetchNonToken 7) = true := by decide
/-- R183's examples. -/
theorem test_history_oldest_most_significant :
    historyInt [false, false, true, true] = 3 ∧ historyInt [true, false, false, false] = 8 := by decide
theorem test_xor_of_negative_source : xorInt 5 (-3) = -8 := by decide

/-! ### Witnesses: a state and operands that meet each statement's hypotheses -/

theorem witness_BootLeavesTheResetValues :
    executableWf Config.default [.number 2, .number 3, .token "noop".toList] = true := by decide

/-- V36k, V36l: the boundary cases on both sides. -/
theorem witness_BootRefusesExactlyMalformedExecutables :
    refusedIs (boot Config.default [.number 1, .number 3, .token "noop".toList]) .malformedExecutable &&
    refusedIs (boot { Config.default with memSize := 1 } [.number 2, .number 2]) .malformedExecutable &&
    refusedIs (boot Config.default [.number 2, .number 4, .token "noop".toList, .number 7]) .malformedExecutable &&
    refusedIs (boot Config.default [.number 2, .number 3, .token "noop".toList, .token "noop".toList])
      .malformedExecutable &&
    nextAnd (boot { Config.default with memSize := 2 } [.number 2, .number 2]) (fun s => s.running) = true := by decide

/-- V33, and an executable with no text. -/
theorem witness_FirstCycleFetchesTheEntryPoint :
    (let exe : Executable := [.number 2, .number 3, .token "jmp 2".toList]
     let s := State.loaded Config.default 2 3 exe
     boot Config.default exe = .next s ∧ s.cs ≤ 255 ∧ s.cs < s.ds ∧ exe[s.cs.toNat]? = some (.token "jmp 2".toList)) ∧
    (let s := State.loaded Config.default 2 2 [.number 2, .number 2]
     boot Config.default [.number 2, .number 2] = .next s ∧ s.cs ≤ 255 ∧ s.ds ≤ s.cs) :=
  ⟨⟨rfl, by decide, by decide, rfl⟩, rfl, by decide, by decide⟩

theorem witness_DecodeOfEncodeIsTheInstruction :
    gprNamesWf small = true ∧ gprNamesLexical small = true ∧
    (Instr.mov (.reg ⟨"t0".toList, .w⟩) (.imm (-9223372036854775808))).wf small = true ∧
    (Instr.mov (.reg ⟨"t0".toList, .w⟩) (.imm (-9223372036854775808))).toMicroOp = none := by decide

theorem witness_SlotTextReadsBackAsTheMicroOp :
    gprNamesWf x86 = true ∧ gprNamesLexical x86 = true ∧
    (MicroOp.load (.imm 9223372036854775807) .two).toInstr.wf x86 = true := by decide

/-- An accepted token string; names within the constraint; and a token for each end of the tests of R94: with a comma,
bracketed, a register, an integer at the end of the range and beyond it, and neither. -/
theorem witness_DecodedInstructionsAreWellFormed :
    decode x86 "cmp 9223372036854775807 [1]".toList = .ok (.cmp (.imm 9223372036854775807) (.mem "[1]".toList)) ∧
    gprNamesWf small = true ∧ regTokOf small "t0w".toList = some ⟨"t0".toList, .w⟩ ∧
    ',' ∈ "[1,2]".toList ∧ ',' ∉ "[1]".toList ∧ isBracketed "[1]".toList = true ∧
    isBracketed "t0w".toList = false ∧ regTokOf small "7".toList = none ∧
    intOf "9223372036854775807".toList = some (2 ^ 63 - 1) ∧ intOf "9223372036854775808".toList = some (2 ^ 63) ∧
    intOf "0x7".toList = none := by decide

theorem witness_ExtraBlanksDoNotChangeTheInstruction :
    [' ', '\t'].all isBlank = true ∧ decode x86 "jmp 4".toList = .ok (.jmp (.imm 4)) ∧
    decode x86 ("jmp".toList ++ ' ' :: "4".toList) = .ok (.jmp (.imm 4)) := by decide

/-- No mnemonic and no token; a mnemonic with an operand of no form, a wrong count, an Immediate destination; and one
with two operands of a form. -/
theorem witness_OnlyTheThirteenMnemonicsDecode :
    ({ bare with cir := some ⟨"hlt".toList, true⟩ } : State).cir = some ⟨"hlt".toList, true⟩ ∧
    (∀ m : Mnemonic, (splitBlanks "hlt".toList).head? ≠ some m.name) ∧
    (∀ m : Mnemonic, (splitBlanks "".toList).head? ≠ some m.name) ∧
    (splitBlanks "mov 5".toList).head? = some Mnemonic.mov.name ∧
    (splitBlanks "jmp [1,2]".toList = Mnemonic.jmp.name :: ["[1,2]".toList] ∧ operandOf x86 "[1,2]".toList = none) ∧
    (splitBlanks "mov rbx".toList = Mnemonic.mov.name :: ["rbx".toList] ∧ ["rbx".toList].length ≠ operandCount .mov) ∧
    (splitBlanks "inc 5".toList = Mnemonic.inc.name :: ["5".toList] ∧ Mnemonic.inc ∈ writesFirst ∧
      operandOf x86 "5".toList = some (.imm 5)) ∧
    (splitBlanks "mov rbx 5".toList = Mnemonic.mov.name :: ["rbx".toList, "5".toList] ∧
      ["rbx".toList, "5".toList].map (operandOf x86) = [Operand.reg (r64 rbx), .imm 5].map some ∧
      ["rbx".toList, "5".toList].length = operandCount .mov ∧
      decode x86 "mov rbx 5".toList = .ok (.mov (.reg (r64 rbx)) (.imm 5))) := by
  refine ⟨rfl, fun m => ?_, fun m => ?_, by decide⟩ <;> cases m <;> decide

theorem witness_RegisterViewsAreTheLowBytes :
    Suffix.view .q = .eight ∧ Suffix.view .none = .eight ∧ Suffix.view .l ≠ .eight ∧ Suffix.view .w ≠ .eight ∧
    Suffix.view .b ≠ .eight := by decide

/-- Each clause of a Memory operand: an address below 0 and at `MEM_SIZE`, an Unwritten cell, a Token, a Number in the last cell, and an
expression that faults. -/
theorem witness_OperandValueOfEveryForm :
    generate "[0-1]".toList cells.gpr = .next (-1) ∧ generate "[64]".toList cells.gpr = .next 64 ∧
    generate "[0]".toList cells.gpr = .next 0 ∧ cells.mem.read 0 = none ∧
    generate "[2]".toList cells.gpr = .next 2 ∧ cells.mem.read 2 = some (.token "mov rbx 5".toList) ∧
    generate "[63]".toList cells.gpr = .next 63 ∧ cells.mem.read 63 = some (.number 7) ∧
    generate "[4/0]".toList cells.gpr = .fault (.aguDivideByZero "[4/0]".toList) :=
  ⟨rfl, rfl, rfl, rfl, rfl, rfl, rfl, rfl, rfl⟩

/-- A value, a fatal error and a refusal. -/
theorem witness_LoadReplacesTheAccumulator :
    operandVal cells (.mem "[7]".toList) = .next 41 ∧ operandVal cells (.mem "[2]".toList) = .fault (.loadNonNumber 2) ∧
    operandVal cells (.mem "[0]".toList) = .refused (.unwrittenCellRead 0) := ⟨rfl, rfl, rfl⟩

theorem witness_StoreWritesItsDestination :
    generate "[0]".toList cells.gpr = .next 0 ∧ generate "[63]".toList cells.gpr = .next 63 ∧
    generate "[64]".toList cells.gpr = .next 64 ∧ generate "[0-1]".toList cells.gpr = .next (-1) ∧
    cells.config.memSize = 64 ∧ generate "[5+]".toList cells.gpr = .fault (.malformedExpression "[5+]".toList) :=
  ⟨rfl, rfl, rfl, rfl, rfl, rfl⟩

theorem witness_AddAndSubWrapAndSetNoFlag : operandVal cells (.imm 1) = .next 1 := rfl

theorem witness_CmpSetsTheFlagsOfTheExactDifference : operandVal cells (.reg ⟨rbx, .b⟩) = .next 0 := rfl

/-- A match, a mismatch, and a JMP with no successor. -/
theorem witness_JmpResolvesTheBranch :
    (branching .alwaysTaken .l 3 true).rob = ⟨.JMP, 5, false⟩ :: ⟨.LOAD, 3, true⟩ :: [] ∧
    condHolds .l (branching .alwaysTaken .l 3 true).flags = true ∧
    condHolds .e (branching .alwaysTaken .e 3 true).flags ≠ true ∧
    update (built .alwaysTaken 1) (branching .alwaysTaken .l 3 true).predictor 5 3 true =
      .next (branching .alwaysTaken .l 3 true).predictor ∧
    update (built .alwaysTaken 1) (branching .alwaysTaken .l 3 true).predictor 6 3 true = .fault .tableFull ∧
    ({ branching .alwaysTaken .l 3 true with rob := [⟨.JMP, 5, false⟩] } : State).rob.length < 2 :=
  ⟨rfl, rfl, by decide, rfl, rfl, by decide⟩

theorem witness_JmpCompletesWhileTheTablesHaveRoom :
    (branching .alwaysNotTaken .e 6 false).rob = ⟨.JMP, 5, false⟩ :: ⟨.LOAD, 6, false⟩ :: [] ∧
    (branching .alwaysNotTaken .e 6 false).config.predictor = .alwaysNotTaken ∧
    (0 < (PredictorState.reset (built .gshare 16)).btb.length ∧
      slotAt (PredictorState.reset (built .gshare 16)).btb 0 = none) ∧
    (15 < (PredictorState.reset (built .gshare 16)).dir.length ∧
      slotAt (PredictorState.reset (built .gshare 16)).dir 15 = none) := by decide

/-- Two cells; a negative length, which writes none; the last cell and the one past it; and an Unwritten third cell. -/
theorem witness_SyscallOneWritesCells :
    (let s := ((cells.setReg rax 1).setReg rsi 9).setReg rdx 2
     s.accWord.toNat % 256 = 1 ∧ 9 = sint64 (s.reg rsi) ∧ 2 = (sint64 (s.reg rdx)).toNat ∧
     s.mem.read 9 = some (.number 72) ∧ s.mem.read 10 = some (.number 105) ∧ s.mem.read 11 = none) ∧
    (let s := (cells.setReg rax 257).setReg rdx (toWord (-4))
     s.accWord.toNat % 256 = 1 ∧ 0 = (sint64 (s.reg rdx)).toNat) ∧
    (let s := ((cells.setReg rax 1).setReg rsi 63).setReg rdx 2
     s.accWord.toNat % 256 = 1 ∧ 63 = sint64 (s.reg rsi) ∧ 2 = (sint64 (s.reg rdx)).toNat ∧
     s.mem.read 63 = some (.number 7) ∧ s.config.memSize ≤ 63 + 1) := by decide

theorem witness_SyscallSixtyHalts : (bare.setReg rax 316).accWord.toNat % 256 = 60 := by decide

theorem witness_SyscallOtherNumbersAreRefused :
    [0, 2, 6, 59, 61, 255, 256].all (fun n =>
      (bare.setReg rax n).accWord.toNat % 256 != 1 && (bare.setReg rax n).accWord.toNat % 256 != 60) = true := by
  decide

/-- V42: three micro-ops with 5 in flight fill the capacity of 8 exactly. -/
theorem witness_IssueInsertsTheWholeGroup :
    groupOf (.inc (.reg (r64 rcx))) =
      some [.load (.reg (r64 rcx)) .eight, .add (.imm 1) .eight, .sto (.reg (r64 rcx)) .eight] ∧
    (let s := { bare with
      cir := some ⟨"inc rcx".toList, false⟩
      rob := List.replicate 5 ⟨.NOOP, 2, false⟩
      pb := List.replicate 5 (.noop .eight) }
     s.cir = some ⟨"inc rcx".toList, false⟩ ∧ s.rob.length + 3 ≤ s.config.robCapacity ∧
     s.pb.length + 3 ≤ s.config.pbCapacity) := by decide

/-- V42: with 6 in flight they do not fit; nor with 3 when only `PB_CAPACITY` is 4. -/
theorem witness_IssueWithoutRoomStallsFetchOnly :
    (let s := { bare with
      cir := some ⟨"inc rcx".toList, false⟩
      rob := List.replicate 6 ⟨.NOOP, 2, false⟩
      pb := List.replicate 6 (.noop .eight) }
     s.cir = some ⟨"inc rcx".toList, false⟩ ∧
     (s.config.robCapacity - s.rob.length < 3 ∨ s.config.pbCapacity - s.pb.length < 3)) ∧
    (let s := { bare with
      config := { Config.default with pbCapacity := 4 }
      rob := List.replicate 3 ⟨.NOOP, 2, false⟩
      pb := List.replicate 3 (.noop .eight) }
     ¬s.config.robCapacity - s.rob.length < 2 ∧ s.config.pbCapacity - s.pb.length < 2) := by decide

/-- V10: the address of the destination is the one after the load. -/
theorem witness_MovLoadsThenStores :
    (let s := holding "mov [rax] rbx" (bare.setReg rbx 9)
     GroupAtHead s [.load (.reg (r64 rbx)) .eight, .sto (.mem "[rax]".toList) .eight] [] ∧
     operandVal s (.reg (r64 rbx)) = .next 9 ∧
     storeDest (s.setAcc 9) (readView .eight (toWord 9)) (.mem "[rax]".toList) =
       .next { s.setAcc 9 with mem := [(9, .number 9)] }) := ⟨⟨rfl, rfl⟩, rfl, rfl⟩

theorem witness_IncAndDecChangeByOne :
    (let s := holding "inc [7]" cells
     GroupAtHead s [.load (.mem "[7]".toList) .eight, .add (.imm 1) .eight, .sto (.mem "[7]".toList) .eight] [] ∧
     operandVal s (.mem "[7]".toList) = .next 41 ∧
     ∃ t, storeDest (s.setAcc 42) (readView .eight (toWord 42)) (.mem "[7]".toList) = .next t) ∧
    (let s := holding "dec rbxb" bare
     GroupAtHead s [.load (.reg ⟨rbx, .b⟩) .one, .sub (.imm 1) .one, .sto (.reg ⟨rbx, .b⟩) .one] [] ∧
     operandVal s (.reg ⟨rbx, .b⟩) = .next 0 ∧
     ∃ t, storeDest (s.setAcc (-1)) (readView .one (toWord (-1))) (.reg ⟨rbx, .b⟩) = .next t) :=
  ⟨⟨⟨rfl, rfl⟩, rfl, _, rfl⟩, ⟨rfl, rfl⟩, rfl, _, rfl⟩

theorem witness_CmpComparesSecondWithFirst :
    (let s := holding "cmp rax [7]" cells
     groupOf (.cmp (.reg (r64 rax)) (.mem "[7]".toList)) =
       some [.load (.mem "[7]".toList) .eight, .cmp (.reg (r64 rax)) .eight] ∧
     GroupAtHead s [.load (.mem "[7]".toList) .eight, .cmp (.reg (r64 rax)) .eight] [] ∧
     operandVal s (.mem "[7]".toList) = .next 41 ∧ operandVal (s.setAcc 41) (.reg (r64 rax)) = .next 41) :=
  ⟨rfl, ⟨rfl, rfl⟩, rfl, rfl⟩

/-- Both outcomes: the successor tagged as the condition holds, and not so. -/
theorem witness_JumpsResolveOnTheFlags :
    (let s := { holding "jl 3" bare with
      pb := jumpGroup .l (.imm 3) ++ [.noop .eight]
      rob := [⟨.LOAD, 4, false⟩, ⟨.JMP, 4, false⟩, ⟨.NOOP, 3, true⟩] }
     (Instr.jl (.imm 3), Cond.l) ∈ [(Instr.jmp (.imm 3), Cond.mp), (Instr.jl (.imm 3), Cond.l)] ∧
     groupOf (.jl (.imm 3)) = some (jumpGroup .l (.imm 3)) ∧ operandVal s (.imm 3) = .next 3 ∧
     update s.config s.predictor 4 (sint64 (toWord 3)) (condHolds .l s.flags) = .next s.predictor ∧
     condHolds .l s.flags = true ∧ condHolds .e s.flags ≠ true) :=
  ⟨by decide, rfl, rfl, rfl, rfl, by decide⟩

theorem witness_StepRunsTheDecodedInstruction :
    (let s := bare.placeToken "inc rbx".toList
     s.running = true ∧ s.stall.execute = true ∧ s.stall.decode = false ∧ s.cir = some ⟨"inc rbx".toList, false⟩ ∧
     decode x86 "inc rbx".toList = .ok (.inc (.reg (r64 rbx))) ∧ (Instr.inc (.reg (r64 rbx))).wf x86 = true) ∧
    (let s := branching .alwaysTaken .l 3 true
     s.running = true ∧ s.stall.execute = false ∧ s.pb = .jmp .l .eight :: [.load (.reg (r64 rbx)) .eight] ∧
     s.rob = ⟨.JMP, 5, false⟩ :: [⟨.LOAD, 3, true⟩]) := by decide

/-- A predictor of one slot, un-stalled, that sends the fetch after 4 to `d`; two tokens and a Number in the text. -/
def sending (d : Int) : State :=
  { cells with
    config := { built .alwaysTaken 1 with memSize := 64 }
    rip := 4
    ds := 100
    predictor := ⟨false, [some ⟨4, d⟩], [none], [false, false, false, false], []⟩ }

/-- Each clause of the next address: a token read, the first address of the synthesized tokens, addresses below 0 and at `MEM_SIZE`, a Number
and an Unwritten cell. -/
theorem witness_FetchLatchesThePredictedAddress :
    [(2 : Int), 100, -1, 64, 63, 0].all (fun d =>
      nextAnd (predict (sending d).config (sending d).predictor (sending d).ripb) (fun r => r.1 == d)) = true ∧
    (sending 2).mem.read 2 = some (.token "mov rbx 5".toList) ∧ (sending 100).ds ≤ 100 ∧ (sending 64).ds > 64 ∧
    (sending 63).mem.read 63 = some (.number 7) ∧ (sending 0).mem.read 0 = none := by decide

theorem witness_MispredictionCostsTheRestOfTheCycle :
    (let s := branching .alwaysTaken .e 3 true
     s.running = true ∧ s.config.flushStallsFetch = true ∧ s.stall.execute = false ∧
     condHolds .e s.flags ≠ true ∧ ∃ t, step s = .next t) := ⟨rfl, rfl, rfl, by decide, _, rfl⟩

theorem witness_MatchedBranchMakesFetchRepeatTheAddress :
    (let s := branching .alwaysTaken .l 3 true
     s.running = true ∧ s.config.stallAfterMatch = true ∧ s.stall.execute = false ∧
     s.pb = .jmp .l .eight :: [.load (.reg (r64 rbx)) .eight] ∧
     s.rob = ⟨.JMP, 5, false⟩ :: ⟨.LOAD, 3, true⟩ :: [] ∧ condHolds .l s.flags = true ∧ s.rip.toNat < 256 ∧
     ∃ t, step s = .next t) := ⟨rfl, rfl, rfl, rfl, rfl, rfl, by decide, _, rfl⟩

theorem witness_AguExamples : ((RegFile.zero x86).set rbx 8).names = Config.default.gprNames := by decide

/-- `rbx + 2 * 7 / 0 - 1`, whose division faults, and without it. -/
theorem witness_AguEvaluatesWithPrecedence :
    operandValue (RegFile.zero x86) "rbx".toList = some 0 ∧ operandValue (RegFile.zero x86) "007".toList = some 7 ∧
    nextAnd (infixValue [] 0 [(.add, 2), (.mul, 7), (.div, 4), (.sub, 1)]) (fun v => v == 2) = true ∧
    faultIs (infixValue [] 0 [(.add, 2), (.div, 0)]) (.aguDivideByZero []) = true := by decide

theorem witness_AguStripsOnePairOfBrackets :
    isBracketed "rbx+rcx+5".toList = false ∧
    nextAnd (generate "rbx+rcx+5".toList (((RegFile.zero x86).set rbx 8).set rcx 2)) (fun v => v == 15) = true := by decide

theorem witness_CircularBufferHoldsItsCapacity :
    ([1, 2, 3] : List Nat).length = 3 ∧ ([1, 2, 3] : List Nat).length < 4 ∧ 2 ≤ ([1, 2, 3] : List Nat).length := by decide

/-- V4's table of four slots, keys 5 and 9 of one home, is sound; the absent 2 finds an empty slot, and so do 2 and 0 in a
bulk insert. A full one has none. -/
theorem witness_HashTableAddThenGet :
    TableSound .identity BtbEntry.key [none, some ⟨5, 0⟩, some ⟨9, 0⟩, none] ∧
    tableGet .identity BtbEntry.key [none, some ⟨5, 0⟩, some ⟨9, 0⟩, none] 2 = none ∧
    tableAdd .identity BtbEntry.key [none, some ⟨5, 0⟩, some ⟨9, 0⟩, none] ⟨2, 1⟩ =
      .next [none, some ⟨5, 0⟩, some ⟨9, 0⟩, some ⟨2, 1⟩] ∧
    (([⟨2, 1⟩, ⟨0, 3⟩] : List BtbEntry).map BtbEntry.key).Nodup ∧
    (∀ y ∈ ([⟨2, 1⟩, ⟨0, 3⟩] : List BtbEntry),
      tableGet .identity BtbEntry.key [none, some ⟨5, 0⟩, some ⟨9, 0⟩, none] y.key = none) ∧
    tableAddAll .identity BtbEntry.key [none, some ⟨5, 0⟩, some ⟨9, 0⟩, none] [⟨2, 1⟩, ⟨0, 3⟩] =
      .next [some ⟨0, 3⟩, some ⟨5, 0⟩, some ⟨9, 0⟩, some ⟨2, 1⟩] ∧
    ∀ j, j < [some (BtbEntry.mk 5 0)].length → slotAt [some (BtbEntry.mk 5 0)] j ≠ none := by
  refine ⟨?_, by decide, rfl, by decide, by decide, rfl, ?_⟩
  · intro j x h
    match j with
    | 0 => simp [slotAt] at h
    | 1 => simp only [slotAt, List.getElem?_cons_succ, List.getElem?_cons_zero, Option.join_some, Option.some.injEq] at h
           subst h; decide
    | 2 => simp only [slotAt, List.getElem?_cons_succ, List.getElem?_cons_zero, Option.join_some, Option.some.injEq] at h
           subst h; decide
    | 3 => simp [slotAt] at h
    | k + 4 => simp [slotAt] at h
  · intro j h
    match j with
    | 0 => decide
    | k + 1 => simp at h

theorem witness_HashTableUpdate :
    tableGet .identity BtbEntry.key [none, some ⟨5, 0⟩, some ⟨9, 0⟩, none] 13 = none ∧
    tableGet .identity BtbEntry.key [none, some ⟨5, 0⟩, some ⟨9, 0⟩, none] 9 ≠ none := by decide

/-- A BTB hit and a miss, and an update of a branch that is present and of one that is not. -/
theorem witness_AlwaysPredictors :
    (let c := built .alwaysTaken 2
     let p : PredictorState := ⟨false, [none, some ⟨5, 3⟩], [none, none], [false, false, false, false], []⟩
     p.stalled = false ∧ c.predictor = .alwaysTaken ∧ btbGet c p 5 = some ⟨5, 3⟩ ∧ btbGet c p 6 = none ∧
     update c p 5 9 true = .next p ∧ ∃ q, update c p 6 9 false = .next q) := ⟨rfl, rfl, rfl, rfl, rfl, _, rfl⟩

theorem witness_OneBitPredictsTheLastOutcome :
    (built .oneBit 2).predictor = .oneBit ∧
    ∃ q, update (built .oneBit 2) { PredictorState.reset (built .oneBit 2) with stalled := false } 5 3 false = .next q :=
  ⟨rfl, _, rfl⟩

/-- An absent branch, and one at the certainty 3. -/
theorem witness_TwoBitCountsTowardTheOutcome :
    (let c := built .twoBit 1
     (∃ q, update c { PredictorState.reset c with stalled := false } 5 3 true = .next q) ∧
     dirGet c { PredictorState.reset c with stalled := false } 5 = none ∧
     (let p : PredictorState := ⟨false, [some ⟨5, 3⟩], [some ⟨5, .counter 3⟩], [false, false, false, false], []⟩
      dirGet c p 5 = some ⟨5, .counter 3⟩ ∧ ∃ q, update c p 5 3 true = .next q)) :=
  ⟨⟨_, rfl⟩, rfl, rfl, _, rfl⟩

theorem witness_TwoBitSaturatesInFiveOutcomes :
    (let c := built .twoBit 1
     let p : PredictorState := { PredictorState.reset c with stalled := false }
     c.predictor = .twoBit ∧ p.stalled = false ∧ btbGet c p 5 = none ∧ dirGet c p 5 = none ∧
     (0 < p.btb.length ∧ slotAt p.btb 0 = none) ∧ (0 < p.dir.length ∧ slotAt p.dir 0 = none)) := by decide

/-- A miss, a hit with room in the OBQ, and the OBQ full. -/
theorem witness_GsharePredictPushesItsPrediction :
    (let c := built .gshare 1
     let p : PredictorState := ⟨false, [some ⟨5, 3⟩], [none], [true, false, false, false], [true, true, true, true]⟩
     c.predictor = .gshare ∧ p.stalled = false ∧ btbGet c p 6 = none ∧ btbGet c p 5 = some ⟨5, 3⟩ ∧
     p.ghr = true :: [false, false, false] ∧ c.obqCapacity ≤ p.obq.length ∧
     ({ p with obq := [true, true, true] } : PredictorState).obq.length < c.obqCapacity ∧
     dirGet c { p with dir := [some ⟨13, .outcome false⟩] } (xorInt 5 (historyInt p.ghr)) =
       some ⟨13, .outcome false⟩) := by decide

/-- V16, step 4: an OBQ head that differs from the outcome, one that equals it, and an empty OBQ. -/
theorem witness_GshareUpdateSettlesTheHistory :
    (let c := built .gshare 16
     let p : PredictorState := { PredictorState.reset c with ghr := [false, true, true, true], obq := [false, false] }
     c.predictor = .gshare ∧ p.obq.head? ≠ some true ∧ p.obq.head? = some false ∧
     (∃ q, update c p 5 3 true = .next q) ∧ (∃ q, update c p 5 3 false = .next q) ∧
     (∃ q, update c { p with obq := [] } 5 3 false = .next q)) :=
  ⟨rfl, by decide, rfl, ⟨_, rfl⟩, ⟨_, rfl⟩, _, rfl⟩

theorem witness_StepKeepsThePipelineInvariant :
    PipelineInv (branching .alwaysTaken .l 3 true) ∧ ∃ t, step (branching .alwaysTaken .l 3 true) = .next t := by
  refine ⟨⟨by decide, rfl, ⟨by decide, by decide⟩, ?_, ?_, ?_, rfl, ?_⟩, _, rfl⟩
  · intro _; decide
  · intro _; decide
  · intro h; exact absurd h (by decide)
  · unfold OperandsFit; decide

theorem witness_StepKeepsThePredictorInvariant :
    PredictorInv (branching .alwaysTaken .l 3 true) ∧ ∃ t, step (branching .alwaysTaken .l 3 true) = .next t := by
  refine ⟨⟨by decide, ⟨rfl, by decide⟩, ⟨rfl, rfl, ?_, ?_⟩, ?_⟩, _, rfl⟩
  · intro j x h
    match j with
    | 0 => simp only [branching, slotAt, List.getElem?_cons_zero, Option.join_some, Option.some.injEq] at h
           subst h; decide
    | k + 1 => simp [branching, slotAt] at h
  · intro j x h
    match j with
    | 0 => simp [branching, slotAt] at h
    | k + 1 => simp [branching, slotAt] at h
  · intro j x h
    match j with
    | 0 => simp [branching, slotAt] at h
    | k + 1 => simp [branching, slotAt] at h

theorem witness_StepKeepsTheMemoryInvariant :
    MemoryInv (branching .alwaysTaken .l 3 true) ∧ ∃ t, step (branching .alwaysTaken .l 3 true) = .next t := by
  refine ⟨⟨by decide, ?_⟩, _, rfl⟩
  intro a c h
  have hm : (branching .alwaysTaken .l 3 true).config.memSize = 64 := rfl
  rw [hm]
  simp only [branching, Memory.read] at h
  split at h
  · cases h; exact ⟨by omega, fun v hv => by cases hv⟩
  · split at h
    · cases h; exact ⟨by omega, fun v hv => by cases hv⟩
    · cases h

theorem witness_StepKeepsTheResultListsAscending :
    (let s := { branching .alwaysTaken .l 3 true with predicted := [5, 19], mispredicted := [11] }
     ResultsInv s ∧ ∃ t, step s = .next t) := ⟨⟨by decide, by decide, by decide, by decide⟩, _, rfl⟩

theorem witness_ResetMeetsTheInvariants :
    Config.default.wf = true ∧ Config.default.memSize < 2 ^ 63 ∧
    boot Config.default [.number 2, .number 3, .token "jmp 2".toList] =
      .next (State.loaded Config.default 2 3 [.number 2, .number 3, .token "jmp 2".toList]) := ⟨rfl, by decide, rfl⟩

theorem witness_RunsNeverReadAStaleSlot :
    (built .gshare 1).wf = true ∧
    boot (built .gshare 1) [.number 2, .number 3, .token "jmp 2".toList] =
      .next (State.loaded (built .gshare 1) 2 3 [.number 2, .number 3, .token "jmp 2".toList]) := ⟨rfl, rfl⟩

/-- Both errors do come: V18's full OBQ, and V13's full branch target buffer. -/
theorem witness_WhereTheBufferErrorsComeFrom :
    step { State.unloaded (built .gshare 1) with
      rip := 5
      predictor := ⟨false, [some ⟨5, 3⟩], [none], [true, true, true, true], [false, false, false, true]⟩ } =
      .fault .bufferFull ∧
    step { branching .alwaysTaken .l 3 true with rob := [⟨.JMP, 6, false⟩, ⟨.LOAD, 3, true⟩] } = .fault .tableFull :=
  ⟨rfl, rfl⟩

theorem witness_OnlyCmpChangesTheFlags :
    nextAnd (step (bare.placeMicroOp (.cmp (.imm 0) .eight))) (fun t => t.flags != bare.flags) = true ∧
    FlagsInv (bare.placeMicroOp (.cmp (.imm 0) .eight)) := ⟨by decide, fun h => absurd h.1 (by decide)⟩

theorem witness_OnlyStoChangesMemory :
    nextAnd (step (cells.placeMicroOp (.sto (.mem "[63]".toList) .eight))) (fun t =>
      t.mem.read 63 != cells.mem.read 63) = true := by decide

theorem witness_OnlySyscallSixtyHalts :
    (let s := (bare.setReg rax 60).placeMicroOp (.syscall .eight)
     s.running = true ∧ nextAnd (step s) (fun t => !t.running) = true) ∧
    (let s := { bare with running := false }
     s.running = false ∧ step s = .next s) := ⟨⟨rfl, by decide⟩, rfl, rfl⟩

theorem witness_EffectsHappenOnlyAtExecute :
    (let s := bare.placeToken "inc rbx".toList
     s.stall.execute = true ∧ ∃ t, step s = .next t) := ⟨rfl, _, rfl⟩

/-- An occupied slot of each table, and a step that rewrites one. -/
theorem witness_BranchMetadataPersists :
    (let s := { branching .oneBit .l 3 true with
      predictor := ⟨false, [some ⟨5, 3⟩], [some ⟨5, .outcome false⟩], [false, false, false, false], []⟩ }
     slotAt s.predictor.btb 0 = some ⟨5, 3⟩ ∧ slotAt s.predictor.dir 0 = some ⟨5, .outcome false⟩ ∧
     nextAnd (step s) (fun t => t.predictor.dir == [some ⟨5, .outcome true⟩]) = true) := by decide

end Sys2Proof.Tests
end

section
/-! SUPPORT. What each part of a step can do, said once: the inversion of a micro-op's dispatch, of the three turns of a
cycle, and what Decode and Fetch leave unchanged. -/

namespace Sys2Proof.Machine

/-! ### The micro-ops -/

/-- Every way a micro-op's dispatch can answer a next state, one constructor per outcome (R262 to R273). -/
inductive MicroEffect : MicroOp → State → State → Prop where
  | load {a : Operand} {w : Width} {s : State} {v : Int} (hv : operandVal s a = .next v) :
      MicroEffect (.load a w) s (s.setAcc v)
  | stoReg {r : RegTok} {w : Width} {s : State} : MicroEffect (.sto (.reg r) w) s (s.regWrite r (s.accRead w))
  | stoMem {e : Token} {w : Width} {s : State} {a : Int} (ha : generate e s.gpr = .next a) (hr : s.inRange a = true) :
      MicroEffect (.sto (.mem e) w) s { s with mem := s.mem.write a.toNat (.number (s.accRead w)) }
  | add {a : Operand} {w : Width} {s : State} {v : Int} (hv : operandVal s a = .next v) :
      MicroEffect (.add a w) s (s.setAcc (sint64 s.accWord + v))
  | sub {a : Operand} {w : Width} {s : State} {v : Int} (hv : operandVal s a = .next v) :
      MicroEffect (.sub a w) s (s.setAcc (sint64 s.accWord + -v))
  | cmp {a : Operand} {w : Width} {s : State} {v : Int} (hv : operandVal s a = .next v) :
      MicroEffect (.cmp a w) s (s.setFlags (flagsOf s.config.parity (sint64 s.accWord - v)))
  | jmpMatch {c : Cond} {w : Width} {s : State} {r x : RobEntry} {p : PredictorState} (hr : s.rob[0]? = some r)
      (hx : s.rob[1]? = some x) (hm : condHolds c s.flags = x.speculative)
      (hp : update s.config s.predictor r.issuing (sint64 s.accWord) (condHolds c s.flags) = .next p) :
      MicroEffect (.jmp c w) s
        (s.recordPredicted.setPredictor (stallAfter s.config (condHolds c s.flags) x.speculative p))
  | jmpMismatch {c : Cond} {w : Width} {s : State} {r x : RobEntry} {p : PredictorState} (hr : s.rob[0]? = some r)
      (hx : s.rob[1]? = some x) (hm : condHolds c s.flags ≠ x.speculative)
      (hp : update s.config s.predictor r.issuing (sint64 s.accWord) (condHolds c s.flags) = .next p) :
      MicroEffect (.jmp c w) s
        ((s.redirect (branchTarget r.issuing (sint64 s.accWord) (condHolds c s.flags))).setPredictor
          (stallAfter s.config (condHolds c s.flags) x.speculative p))
  | write {w : Width} {s : State} {cs : List Content} (hn : s.syscallNumber = 1)
      (hc : readCells s (sint64 (s.reg s.config.sysWriteLenReg)).toNat (sint64 (s.reg s.config.sysWriteBufReg)) = .next cs) :
      MicroEffect (.syscall w) s (s.emit cs)
  | halt {w : Width} {s : State} (hn : s.syscallNumber = 60) : MicroEffect (.syscall w) s s.halt
  | noop {w : Width} {s : State} : MicroEffect (.noop w) s s

theorem execMicroSto_effect {d : Dest} {w : Width} {s t : State} (h : execMicroSto d w s = .next t) :
    MicroEffect (.sto d w) s t := by
  rcases storeDest_eq_next h with ⟨r, rfl, rfl⟩ | ⟨e, a, rfl, ha, hr, rfl⟩
  · exact .stoReg
  · exact .stoMem ha hr

theorem execMicroJmp_effect {c : Cond} {w : Width} {s t : State} (h : execMicroJmp c w s = .next t) :
    MicroEffect (.jmp c w) s t := by
  obtain ⟨r, hr, h⟩ := andThen_eq_next.1 h
  obtain ⟨x, hx, h⟩ := andThen_eq_next.1 h
  obtain ⟨p, hp, rfl⟩ := resolveBranch_eq_next h
  rw [circGet_eq_next] at hr hx
  unfold settleBranch
  split
  · next hm => exact .jmpMatch hr hx hm hp
  · next hm => exact .jmpMismatch hr hx hm hp

theorem execMicroSyscall_effect {w : Width} {s t : State} (h : execMicroSyscall w s = .next t) :
    MicroEffect (.syscall w) s t := by
  unfold execMicroSyscall at h
  split at h
  · next hn =>
    obtain ⟨cs, hc, h⟩ := andThen_eq_next.1 h
    cases h
    exact .write hn hc
  · split at h
    · next hn => cases h; exact .halt hn
    · cases h

/-- The inversion of a micro-op's dispatch: whatever it answers is one of the listed effects. -/
theorem exec_microOp_effect {u : MicroOp} {s t : State} (h : exec u.toInstr s = .next t) : MicroEffect u s t := by
  cases u with
  | load a w => obtain ⟨v, hv, h⟩ := andThen_eq_next.1 h; cases h; exact .load hv
  | sto d w => exact execMicroSto_effect h
  | add a w => obtain ⟨v, hv, h⟩ := andThen_eq_next.1 h; cases h; exact .add hv
  | sub a w => obtain ⟨v, hv, h⟩ := andThen_eq_next.1 h; cases h; exact .sub hv
  | cmp a w => obtain ⟨v, hv, h⟩ := andThen_eq_next.1 h; cases h; exact .cmp hv
  | jmp c w => exact execMicroJmp_effect h
  | syscall w => exact execMicroSyscall_effect h
  | noop w => cases h; exact .noop

/-! ### The thirteen instructions of a token string -/

/-- What the machine does with an instruction that has a group is to issue the group (R226). -/
theorem exec_of_groupOf {i : Instr} {g : List MicroOp} (hg : groupOf i = some g) (s : State) : exec i s = issue g s := by
  have hi : issueInstr i s = issue g s := by rw [issueInstr, hg, Option.getD_some]
  rw [← hi]
  cases i with
  | microLoad | microSto | microAdd | microSub | microCmp | microJmp | microSyscall | microNoop => cases hg
  | mov | jmp | je | jne | jg | jl | jge | jle | inc | dec | cmp | syscall | noop => rfl

theorem toDest_eq_some {o : Operand} {d : Dest} (h : o.toDest = some d) : o = d.toOperand := by
  cases o with
  | reg r => cases h; rfl
  | mem e => cases h; rfl
  | imm v => cases h

/-- What is assembled is spelled with the mnemonic and the operands it was assembled from (R98). -/
theorem spelledAs_of_assemble {m : Mnemonic} {ops : List Operand} {i : Instr} (h : assemble m ops = some i) :
    spelledAs i = some (m, ops) := by
  unfold assemble at h
  split at h
  case h_1 | h_9 | h_10 =>
    obtain ⟨d, hd, rfl⟩ := Option.map_eq_some_iff.1 h
    rw [toDest_eq_some hd]
    rfl
  all_goals cases h
  all_goals rfl

/-- An instruction a token string spells has a group (R101). -/
theorem groupOf_of_spelledAs {i : Instr} {m : Mnemonic} {ops : List Operand} (h : spelledAs i = some (m, ops)) :
    ∃ g, groupOf i = some g := by
  cases i with
  | microLoad | microSto | microAdd | microSub | microCmp | microJmp | microSyscall | microNoop => cases h
  | mov | jmp | je | jne | jg | jl | jge | jle | inc | dec | cmp | syscall | noop => exact ⟨_, rfl⟩

/-- Decode issues the group of the instruction in `cir`: what it does is what `issue` does with that group (R226). -/
theorem decodeStage_issues {s t : State} (h : decodeStage s = .next t) :
    ∃ f i g, s.cir = some f ∧ decode s.config.gprNames f.token = .ok i ∧ groupOf i = some g ∧ issue g s = .next t := by
  obtain ⟨f, i, hf, hi, h⟩ := decodeStage_eq_next h
  obtain ⟨m, args, ops, _, _, ha⟩ := decode_eq_ok hi
  obtain ⟨g, hg⟩ := groupOf_of_spelledAs (spelledAs_of_assemble ha)
  exact ⟨f, i, g, hf, hi, hg, exec_of_groupOf hg s ▸ h⟩

/-! ### The turns of a cycle -/

/-- What Execute's turn does: nothing, or the head micro-op's effect and the removal of both heads (R222, R260). -/
theorem executeTurn_eq_next {s t : State} (h : executeTurn s = .next t) :
    ((s.stall.execute = true ∨ s.pb = []) ∧ t = s) ∨
    (s.stall.execute = false ∧ ∃ u us t', s.pb = u :: us ∧ MicroEffect u (s.traceExecuted u) t' ∧ t = t'.popHeads) := by
  unfold executeTurn at h
  split at h
  · next hs => cases h; exact .inl ⟨.inl hs, rfl⟩
  · next hs =>
    rcases executeStage_eq_next h with ⟨hp, rfl⟩ | ⟨u, us, r, rs, t', hu, _, ht, rfl⟩
    · exact .inl ⟨.inr hp, rfl⟩
    · exact .inr ⟨by simpa using hs, u, us, t', hu, exec_microOp_effect ht, rfl⟩

theorem decodeTurn_eq_next {s t : State} (h : decodeTurn s = .next t) :
    (s.stall.decode = true ∧ t = s) ∨ (s.stall.decode = false ∧ decodeStage s = .next t) := by
  unfold decodeTurn at h
  split at h
  · next hs => cases h; exact .inl ⟨hs, rfl⟩
  · next hs => exact .inr ⟨by simpa using hs, h⟩

theorem fetchTurn_eq_next {s t : State} (h : fetchTurn s = .next t) :
    (s.stall.fetch = true ∧ t = s.setStallFetch false) ∨ (s.stall.fetch = false ∧ fetchStage s = .next t) := by
  unfold fetchTurn at h
  split at h
  · next hs => cases h; exact .inl ⟨hs, rfl⟩
  · next hs => exact .inr ⟨by simpa using hs, h⟩

/-! ### What Decode and Fetch leave unchanged -/

/-- What neither Decode nor Fetch writes: the parameters, the registers, the flags, the results, memory, and the tables
of the predictor (R71, R340). -/
structure FrontEndFrame (s t : State) : Prop where
  config : t.config = s.config
  gpr : t.gpr = s.gpr
  flags : t.flags = s.flags
  cs : t.cs = s.cs
  ds : t.ds = s.ds
  running : t.running = s.running
  cycle : t.cycle = s.cycle
  predicted : t.predicted = s.predicted
  mispredicted : t.mispredicted = s.mispredicted
  output : t.output = s.output
  mem : t.mem = s.mem
  lastExecuted : t.lastExecuted = s.lastExecuted
  btb : t.predictor.btb = s.predictor.btb
  dir : t.predictor.dir = s.predictor.dir

theorem FrontEndFrame.refl (s : State) : FrontEndFrame s s := by constructor <;> rfl

theorem FrontEndFrame.trans {s t u : State} (h : FrontEndFrame s t) (k : FrontEndFrame t u) : FrontEndFrame s u where
  config := k.config.trans h.config
  gpr := k.gpr.trans h.gpr
  flags := k.flags.trans h.flags
  cs := k.cs.trans h.cs
  ds := k.ds.trans h.ds
  running := k.running.trans h.running
  cycle := k.cycle.trans h.cycle
  predicted := k.predicted.trans h.predicted
  mispredicted := k.mispredicted.trans h.mispredicted
  output := k.output.trans h.output
  mem := k.mem.trans h.mem
  lastExecuted := k.lastExecuted.trans h.lastExecuted
  btb := k.btb.trans h.btb
  dir := k.dir.trans h.dir

/-- Decode writes nothing but the buffers, the stall flags and its trace register; so the predictor is as before. -/
theorem decodeTurn_frame {s t : State} (h : decodeTurn s = .next t) :
    FrontEndFrame s t ∧ t.predictor = s.predictor := by
  rcases decodeTurn_eq_next h with ⟨_, rfl⟩ | ⟨_, h⟩
  · exact ⟨.refl _, rfl⟩
  · obtain ⟨_, _, _, _, _, _, hi⟩ := decodeStage_issues h
    obtain ⟨_, _, ⟨_, rfl⟩ | ⟨_, rfl⟩⟩ := issue_eq_next hi
    · exact ⟨by constructor <;> rfl, rfl⟩
    · exact ⟨by constructor <;> rfl, rfl⟩

/-- What a prediction does: the tables stay, and the history stays or takes one prediction (R172, R174 to R184). -/
theorem predict_history {c : Config} {p p' : PredictorState} {pc n : Int} (h : predict c p pc = .next (n, p')) :
    p'.btb = p.btb ∧ p'.dir = p.dir ∧
    ((p'.ghr = p.ghr ∧ p'.obq = p.obq) ∨
     ∃ e b, p.ghr[0]? = some e ∧ p.obq.length < c.obqCapacity ∧ p'.ghr = p.ghr.tail ++ [b] ∧ p'.obq = p.obq ++ [e]) := by
  rcases predict_eq_next h with ⟨_, _, rfl⟩ | ⟨_, h⟩
  · exact ⟨rfl, rfl, .inl ⟨rfl, rfl⟩⟩
  · rcases predictVariant_eq_next h with rfl | ⟨_, b, hb⟩
    · exact ⟨rfl, rfl, .inl ⟨rfl, rfl⟩⟩
    · obtain ⟨e, he, hl, rfl⟩ := pushPrediction_eq_next hb
      exact ⟨rfl, rfl, .inr ⟨e, b, he, hl, rfl, rfl⟩⟩

theorem fetchTurn_frame {s t : State} (h : fetchTurn s = .next t) : FrontEndFrame s t := by
  rcases fetchTurn_eq_next h with ⟨_, rfl⟩ | ⟨_, h⟩
  · constructor <;> rfl
  · obtain ⟨n, p, tok, hp, _, rfl⟩ := fetchStage_eq_next h
    obtain ⟨hb, hd, _⟩ := predict_history hp
    exact { FrontEndFrame.refl s with btb := hb, dir := hd }

/-- A step is none, or Execute's turn in a new cycle followed by what Decode and Fetch write (R220, R221). -/
theorem step_frame {s t : State} (h : step s = .next t) :
    t = s ∨ ∃ s1, executeTurn s.tick = .next s1 ∧ FrontEndFrame s1 t := by
  rcases step_eq_next h with ⟨_, h⟩ | ⟨_, rfl⟩
  · obtain ⟨s1, s2, h1, h2, h3⟩ := cycle_eq_next h
    exact .inr ⟨s1, h1, (decodeTurn_frame h2).1.trans (fetchTurn_frame h3)⟩
  · exact .inl rfl

end Sys2Proof.Machine
end

section
/-! SUPPORT. The hash tables under one write, and what an update does to the predictor (R129 to R133, R175 to R187). -/

namespace Sys2Proof.Machine

/-! ### A slot written -/

section
variable {α : Type} {h : HashFn} {keyOf : α → Int} {slots slots' : List (Option α)} {x : α}

theorem lt_length_of_slotAt {j : Nat} (hj : slotAt slots j = some x) : j < slots.length := by
  by_contra hlt
  rw [slotAt, List.getElem?_eq_none (Nat.le_of_not_lt hlt)] at hj
  cases hj

theorem slotAt_set_same {j : Nat} (hj : j < slots.length) (o : Option α) : slotAt (slots.set j o) j = o := by
  simp [slotAt, hj]

theorem slotAt_set_other {i j : Nat} (hij : i ≠ j) (o : Option α) : slotAt (slots.set j o) i = slotAt slots i := by
  rw [slotAt, List.getElem?_set_ne (Ne.symm hij), slotAt]

theorem lt_length_of_mem_probes {c : Nat} {k : Int} {j : Nat} (hj : j ∈ probes h c k) : j < c := by
  obtain ⟨i, hi, rfl⟩ := List.mem_map.1 hj
  exact Nat.mod_lt _ (Nat.zero_lt_of_lt (List.mem_range.1 hi))

/-- A lookup that finds its entry finds it still after an empty slot is filled: it never passed the empty slot. -/
theorem findSlot_fill_of_some {js : List Nat} {k : Int} {i j : Nat} (hf : findSlot keyOf slots k js = some i)
    (hj : slotAt slots j = none) : findSlot keyOf (slots.set j (some x)) k js = some i := by
  induction js with
  | nil => cases hf
  | cons n js ih =>
    unfold findSlot at hf ⊢
    by_cases hn : n = j
    · rw [hn, hj] at hf
      cases hf
    · rw [slotAt_set_other hn]
      cases hs : slotAt slots n with
      | none => rw [hs] at hf; cases hf
      | some y =>
        simp only [hs] at hf ⊢
        split at hf
        · next hk => rw [if_pos hk]; exact hf
        · next hk => rw [if_neg hk]; exact ih hf

/-- A lookup of an absent key finds the new entry once the first empty slot of its probe sequence holds it. -/
theorem findSlot_fill_of_none {js : List Nat} {j : Nat} (hf : findSlot keyOf slots (keyOf x) js = none)
    (hj : js.find? (fun n => (slotAt slots n).isNone) = some j) (hl : j < slots.length) :
    findSlot keyOf (slots.set j (some x)) (keyOf x) js = some j := by
  induction js with
  | nil => cases hj
  | cons n js ih =>
    unfold findSlot at hf ⊢
    cases hs : slotAt slots n with
    | none =>
      obtain rfl : n = j := by simpa [hs] using hj
      rw [slotAt_set_same hl]
      exact if_pos rfl
    | some y =>
      rw [List.find?_cons_of_neg (by simp [hs])] at hj
      have hn : n ≠ j := by
        rintro rfl
        have := List.find?_some hj
        simp [hs] at this
      simp only [hs] at hf
      rw [slotAt_set_other hn, hs]
      split at hf
      · cases hf
      · next hk => exact (if_neg hk).trans (ih hf hj)

/-- A lookup is unchanged when an entry is replaced by one with the same key. -/
theorem findSlot_replace {js : List Nat} {k : Int} {j : Nat} {y : α} (hj : slotAt slots j = some y)
    (hy : keyOf y = keyOf x) : findSlot keyOf (slots.set j (some x)) k js = findSlot keyOf slots k js := by
  induction js with
  | nil => rfl
  | cons n js ih =>
    unfold findSlot
    by_cases hn : n = j
    · subst hn
      simp only [slotAt_set_same (lt_length_of_slotAt hj), hj, hy, ih]
    · simp only [slotAt_set_other hn, ih]

/-- `get` finds nothing exactly when no slot is found. -/
theorem tableGet_eq_none {k : Int} :
    tableGet h keyOf slots k = none ↔ findSlot keyOf slots k (probes h slots.length k) = none := by
  unfold tableGet
  cases hf : findSlot keyOf slots k (probes h slots.length k) with
  | none => simp
  | some j =>
    obtain ⟨_, y, hy, _⟩ := findSlot_eq_some hf
    simp [hy]

/-- `add` fills the first empty slot of the probe sequence, which is a slot of the table (R129). -/
theorem tableAdd_fills_first (ha : tableAdd h keyOf slots x = .next slots') :
    ∃ j, (probes h slots.length (keyOf x)).find? (fun n => (slotAt slots n).isNone) = some j ∧ j < slots.length ∧
      slotAt slots j = none ∧ slots' = slots.set j (some x) := by
  unfold tableAdd at ha
  split at ha
  · next j hj =>
    cases ha
    exact ⟨j, hj, lt_length_of_mem_probes (List.mem_of_find?_eq_some hj), by simpa using List.find?_some hj, rfl⟩
  · cases ha

/-! ### One write of a table -/

/-- The write every update makes of a table: an absent key is added, a present one rewritten (R129, R131). -/
inductive TablePut (h : HashFn) (keyOf : α → Int) (slots : List (Option α)) (x : α) (slots' : List (Option α)) : Prop
  | added (hg : tableGet h keyOf slots (keyOf x) = none) (ha : tableAdd h keyOf slots x = .next slots')
  | rewritten (hu : tableUpdate h keyOf slots x = .next slots')

/-- A write puts its item in one slot, which was empty or held an entry with the item's key. -/
theorem TablePut.eq_set (hp : TablePut h keyOf slots x slots') :
    ∃ j, j < slots.length ∧ slots' = slots.set j (some x) ∧ ∀ y, slotAt slots j = some y → keyOf y = keyOf x := by
  cases hp with
  | added hg ha =>
    obtain ⟨j, hj, hn, rfl⟩ := tableAdd_eq_next ha
    exact ⟨j, lt_length_of_mem_probes hj, rfl, fun y hy => by rw [hn] at hy; cases hy⟩
  | rewritten hu =>
    obtain ⟨j, hj, rfl⟩ := tableUpdate_eq_next hu
    obtain ⟨hm, z, hz, hk⟩ := findSlot_eq_some hj
    exact ⟨j, lt_length_of_mem_probes hm, rfl, fun y hy => by rw [hz] at hy; cases hy; exact hk⟩

theorem TablePut.length_eq (hp : TablePut h keyOf slots x slots') : slots'.length = slots.length := by
  obtain ⟨j, _, rfl, _⟩ := hp.eq_set
  exact List.length_set

/-- Every entry after a write is the item written or one that stood there before. -/
theorem TablePut.slotAt_eq (hp : TablePut h keyOf slots x slots') {i : Nat} {y : α} (hi : slotAt slots' i = some y) :
    y = x ∨ slotAt slots i = some y := by
  obtain ⟨j, hj, rfl, _⟩ := hp.eq_set
  by_cases hij : i = j
  · subst hij
    rw [slotAt_set_same hj] at hi
    exact .inl (Option.some.inj hi).symm
  · rw [slotAt_set_other hij] at hi
    exact .inr hi

/-- A write keeps a table sound: the item is where its lookup ends, and no other lookup is disturbed (R133). -/
theorem TablePut.sound (hp : TablePut h keyOf slots x slots') (hs : TableSound h keyOf slots) :
    TableSound h keyOf slots' := by
  intro i y hi
  rw [hp.length_eq]
  cases hp with
  | added hg ha =>
    obtain ⟨j, hj, hl, hn, rfl⟩ := tableAdd_fills_first ha
    by_cases hij : i = j
    · subst hij
      rw [slotAt_set_same hl] at hi
      cases hi
      exact findSlot_fill_of_none (tableGet_eq_none.1 hg) hj hl
    · rw [slotAt_set_other hij] at hi
      exact findSlot_fill_of_some (hs i y hi) hn
  | rewritten hu =>
    obtain ⟨j, hj, rfl⟩ := tableUpdate_eq_next hu
    obtain ⟨_, z, hz, hk⟩ := findSlot_eq_some hj
    rw [findSlot_replace hz hk]
    by_cases hij : i = j
    · subst hij
      rw [slotAt_set_same (lt_length_of_slotAt hz)] at hi
      cases hi
      exact hj
    · rw [slotAt_set_other hij] at hi
      exact hs i y hi

/-- No entry is removed: an occupied slot stays occupied, by an entry with the same key (R132). -/
def KeepsKeys (keyOf : α → Int) (slots slots' : List (Option α)) : Prop :=
  ∀ j e, slotAt slots j = some e → ∃ e', slotAt slots' j = some e' ∧ keyOf e' = keyOf e

theorem KeepsKeys.of_eq (hs : slots' = slots) : KeepsKeys keyOf slots slots' :=
  fun _ e hj => ⟨e, hs ▸ hj, rfl⟩

theorem TablePut.keepsKeys (hp : TablePut h keyOf slots x slots') : KeepsKeys keyOf slots slots' := by
  intro i e hi
  obtain ⟨j, hj, rfl, hk⟩ := hp.eq_set
  by_cases hij : i = j
  · subst hij
    exact ⟨x, slotAt_set_same hj _, (hk e hi).symm⟩
  · exact ⟨e, (slotAt_set_other hij _).trans hi, rfl⟩

end

/-! ### The predictor's update -/

theorem btbInsert_put {c : Config} {p p' : PredictorState} {a d : Int} (h : btbInsert c p a d = .next p') :
    ∃ t, (t = p.btb ∨ TablePut c.hash BtbEntry.key p.btb ⟨a, d⟩ t) ∧ p' = { p with btb := t } := by
  unfold btbInsert at h
  split at h
  · cases h
    exact ⟨p.btb, .inl rfl, rfl⟩
  · next hg =>
    obtain ⟨t, ht, h⟩ := andThen_eq_next.1 h
    cases h
    exact ⟨t, .inr (.added hg ht), rfl⟩

theorem btbPut_put {c : Config} {p p' : PredictorState} {a d : Int} (h : btbPut c p a d = .next p') :
    ∃ t, TablePut c.hash BtbEntry.key p.btb ⟨a, d⟩ t ∧ p' = { p with btb := t } := by
  unfold btbPut at h
  split at h
  · obtain ⟨t, ht, h⟩ := andThen_eq_next.1 h
    cases h
    exact ⟨t, .rewritten ht, rfl⟩
  · next hg =>
    obtain ⟨t, ht, h⟩ := andThen_eq_next.1 h
    cases h
    exact ⟨t, .added hg ht, rfl⟩

theorem dirPut_put {c : Config} {p p' : PredictorState} {k : Int} {v : Certainty} (h : dirPut c p k v = .next p') :
    ∃ t, TablePut c.hash DirEntry.key p.dir ⟨k, v⟩ t ∧ p' = { p with dir := t } := by
  unfold dirPut at h
  split at h
  · obtain ⟨t, ht, h⟩ := andThen_eq_next.1 h
    cases h
    exact ⟨t, .rewritten ht, rfl⟩
  · next hg =>
    obtain ⟨t, ht, h⟩ := andThen_eq_next.1 h
    cases h
    exact ⟨t, .added hg ht, rfl⟩

/-- gshare's last part neither reads nor writes the tables. -/
theorem settleHistory_of_tables (p : PredictorState) (b : List (Option BtbEntry)) (d : List (Option DirEntry))
    (h : List Bool) (taken : Bool) :
    settleHistory { p with btb := b, dir := d } h taken = { settleHistory p h taken with btb := b, dir := d } := by
  unfold settleHistory
  split <;> rfl

/-- What an update does to the tables and to the history: at most one write of each table, with a certainty of the
variant's kind, and the history settled under gshare (R175 to R186). -/
structure UpdateEffect (c : Config) (taken : Bool) (p p' : PredictorState) : Prop where
  btb : p'.btb = p.btb ∨ ∃ e, TablePut c.hash BtbEntry.key p.btb e p'.btb
  dir : p'.dir = p.dir ∨ ∃ e, CertaintyFits c.predictor e.certainty ∧ TablePut c.hash DirEntry.key p.dir e p'.dir
  history : (p'.ghr = p.ghr ∧ p'.obq = p.obq) ∨
    (p'.ghr = (settleHistory p (confirmedHistory p) taken).ghr ∧ p'.obq = (settleHistory p (confirmedHistory p) taken).obq)

theorem UpdateEffect.of_btbInsert {c : Config} {taken : Bool} {p p' : PredictorState} {a d : Int}
    (h : btbInsert c p a d = .next p') : UpdateEffect c taken p p' := by
  obtain ⟨t, ht, rfl⟩ := btbInsert_put h
  exact ⟨ht.imp_right fun hp => ⟨_, hp⟩, .inl rfl, .inl ⟨rfl, rfl⟩⟩

theorem UpdateEffect.of_btbInsert_dirPut {c : Config} {taken : Bool} {p q p' : PredictorState} {a d k : Int}
    {v : Certainty} (hv : CertaintyFits c.predictor v) (h : btbInsert c p a d = .next q)
    (h' : dirPut c q k v = .next p') : UpdateEffect c taken p p' := by
  obtain ⟨t, ht, rfl⟩ := btbInsert_put h
  obtain ⟨u, hu, rfl⟩ := dirPut_put h'
  exact ⟨ht.imp_right fun hp => ⟨_, hp⟩, .inr ⟨_, hv, hu⟩, .inl ⟨rfl, rfl⟩⟩

theorem UpdateEffect.of_updateGshare {c : Config} {taken : Bool} {p p' : PredictorState} {a d : Int}
    (hc : c.predictor = .gshare) (h : updateGshare c p a d taken = .next p') : UpdateEffect c taken p p' := by
  obtain ⟨p1, h1, h⟩ := andThen_eq_next.1 h
  obtain ⟨p2, h2, h⟩ := andThen_eq_next.1 h
  obtain ⟨t, ht, rfl⟩ := dirPut_put h1
  obtain ⟨u, hu, rfl⟩ := btbPut_put h2
  cases h
  rw [settleHistory_of_tables p u t]
  exact ⟨.inr ⟨_, hu⟩, .inr ⟨_, by rw [hc]; trivial, ht⟩, .inr ⟨rfl, rfl⟩⟩

/-- The inversion of the update of every variant. -/
theorem update_effect {c : Config} {taken : Bool} {p p' : PredictorState} {a d : Int}
    (h : update c p a d taken = .next p') : UpdateEffect c taken p p' := by
  unfold update at h
  split at h
  case h_1 => cases h; exact ⟨.inl rfl, .inl rfl, .inl ⟨rfl, rfl⟩⟩
  case h_2 => exact .of_btbInsert h
  case h_3 hc =>
    obtain ⟨q, hq, h⟩ := andThen_eq_next.1 h
    exact .of_btbInsert_dirPut (by rw [hc]; trivial) hq h
  case h_4 hc =>
    obtain ⟨q, hq, h⟩ := andThen_eq_next.1 h
    exact .of_btbInsert_dirPut (by rw [hc]; trivial) hq h
  case h_5 hc => exact .of_updateGshare hc h

@[simp] theorem stallAfter_btb (c : Config) (m n : Bool) (p : PredictorState) : (stallAfter c m n p).btb = p.btb := by
  unfold stallAfter; split <;> rfl
@[simp] theorem stallAfter_dir (c : Config) (m n : Bool) (p : PredictorState) : (stallAfter c m n p).dir = p.dir := by
  unfold stallAfter; split <;> rfl
@[simp] theorem stallAfter_ghr (c : Config) (m n : Bool) (p : PredictorState) : (stallAfter c m n p).ghr = p.ghr := by
  unfold stallAfter; split <;> rfl
@[simp] theorem stallAfter_obq (c : Config) (m n : Bool) (p : PredictorState) : (stallAfter c m n p).obq = p.obq := by
  unfold stallAfter; split <;> rfl

theorem UpdateEffect.stallAfter {c : Config} {taken : Bool} {p p' : PredictorState} (h : UpdateEffect c taken p p')
    (m n : Bool) : UpdateEffect c taken p (stallAfter c m n p') := by
  refine ⟨?_, ?_, ?_⟩
  · rw [stallAfter_btb]; exact h.btb
  · rw [stallAfter_dir]; exact h.dir
  · rw [stallAfter_ghr, stallAfter_obq]; exact h.history

/-- A micro-op leaves the predictor as it is, or is a JMP and updates it (R267). -/
theorem MicroEffect.predictor {u : MicroOp} {s t : State} (h : MicroEffect u s t) :
    t.predictor = s.predictor ∨ ∃ taken, UpdateEffect s.config taken s.predictor t.predictor := by
  cases h with
  | jmpMatch _ _ _ hp => exact .inr ⟨_, (update_effect hp).stallAfter _ _⟩
  | jmpMismatch _ _ _ hp => exact .inr ⟨_, (update_effect hp).stallAfter _ _⟩
  | load | stoReg | stoMem | add | sub | cmp | write | halt | noop => exact .inl rfl

theorem MicroEffect.config {u : MicroOp} {s t : State} (h : MicroEffect u s t) : t.config = s.config := by
  cases h <;> rfl

end Sys2Proof.Machine
end

section
/-! The invariant of the predictor (O49) and the permanence of branch metadata (O59). -/

namespace Sys2Proof.Machine

/-! ### The history -/

theorem settleHistory_fits {c : Config} {p : PredictorState} (taken : Bool) (hg : 1 ≤ c.ghrLength)
    (hc : c.obqCapacity ≤ c.ghrLength) (h : HistoryFits c p) :
    HistoryFits c (settleHistory p (confirmedHistory p) taken) := by
  obtain ⟨hghr, hobq⟩ := h
  unfold settleHistory
  split
  · exact ⟨hghr, by simp [circRemove]; omega⟩
  · refine ⟨?_, Nat.zero_le _⟩
    simp [confirmedHistory]
    omega

theorem UpdateEffect.historyFits {c : Config} {taken : Bool} {p p' : PredictorState} (hu : UpdateEffect c taken p p')
    (hg : 1 ≤ c.ghrLength) (hc : c.obqCapacity ≤ c.ghrLength) (h : HistoryFits c p) : HistoryFits c p' := by
  rcases hu.history with ⟨h1, h2⟩ | ⟨h1, h2⟩
  · exact ⟨h1 ▸ h.1, h2 ▸ h.2⟩
  · obtain ⟨hghr, hobq⟩ := settleHistory_fits taken hg hc h
    exact ⟨h1 ▸ hghr, h2 ▸ hobq⟩

theorem predict_historyFits {c : Config} {p p' : PredictorState} {pc n : Int} (hp : predict c p pc = .next (n, p'))
    (h : HistoryFits c p) : HistoryFits c p' := by
  obtain ⟨hghr, hobq⟩ := h
  obtain ⟨_, _, ⟨h1, h2⟩ | ⟨e, b, he, hl, h1, h2⟩⟩ := predict_history hp
  · exact ⟨h1 ▸ hghr, h2 ▸ hobq⟩
  · obtain ⟨hlt, _⟩ := List.getElem?_eq_some_iff.1 he
    constructor
    · simp [h1]; omega
    · simp [h2]; omega

/-! ### The invariant -/

/-- The invariant of the predictor, as one of the predictor's own state. -/
def PredictorFits (c : Config) (p : PredictorState) : Prop :=
  HistoryFits c p ∧ TablesFit c p ∧ ∀ j e, slotAt p.dir j = some e → CertaintyFits c.predictor e.certainty

theorem predictorInv_iff {s : State} : PredictorInv s ↔ s.config.wf = true ∧ PredictorFits s.config s.predictor := Iff.rfl

/-- What `Config.wf` says of the lengths of the history (R140). -/
theorem Config.ghrLength_of_wf {c : Config} (h : c.wf = true) : 1 ≤ c.ghrLength ∧ c.obqCapacity ≤ c.ghrLength := by
  simp only [Config.wf, Bool.and_eq_true, decide_eq_true_eq] at h
  omega

theorem UpdateEffect.fits {c : Config} {taken : Bool} {p p' : PredictorState} (hu : UpdateEffect c taken p p')
    (hw : c.wf = true) (h : PredictorFits c p) : PredictorFits c p' := by
  obtain ⟨hhist, ⟨hbl, hdl, hbs, hds⟩, hcert⟩ := h
  obtain ⟨hg, hc⟩ := Config.ghrLength_of_wf hw
  have hbtb : p'.btb.length = c.btbCapacity ∧ TableSound c.hash BtbEntry.key p'.btb := by
    rcases hu.btb with he | ⟨e, hp⟩
    · rw [he]; exact ⟨hbl, hbs⟩
    · exact ⟨hp.length_eq.trans hbl, hp.sound hbs⟩
  have hdir : p'.dir.length = c.dirCapacity ∧ TableSound c.hash DirEntry.key p'.dir ∧
      ∀ j e, slotAt p'.dir j = some e → CertaintyFits c.predictor e.certainty := by
    rcases hu.dir with he | ⟨e, hv, hp⟩
    · rw [he]; exact ⟨hdl, hds, hcert⟩
    · refine ⟨hp.length_eq.trans hdl, hp.sound hds, fun j y hj => ?_⟩
      rcases hp.slotAt_eq hj with rfl | hy
      · exact hv
      · exact hcert j y hy
  exact ⟨hu.historyFits hg hc hhist, ⟨hbtb.1, hdir.1, hbtb.2, hdir.2.1⟩, hdir.2.2⟩

theorem predict_fits {c : Config} {p p' : PredictorState} {pc n : Int} (hp : predict c p pc = .next (n, p'))
    (h : PredictorFits c p) : PredictorFits c p' := by
  obtain ⟨hhist, htab, hcert⟩ := h
  obtain ⟨hb, hd, _⟩ := predict_history hp
  refine ⟨predict_historyFits hp hhist, ?_, ?_⟩
  · unfold TablesFit
    rw [hb, hd]
    exact htab
  · rw [hd]
    exact hcert

theorem executeTurn_keeps_predictorInv {s t : State} (hs : PredictorInv s) (h : executeTurn s = .next t) :
    PredictorInv t := by
  rcases executeTurn_eq_next h with ⟨_, rfl⟩ | ⟨_, u, us, t', _, he, rfl⟩
  · exact hs
  · obtain ⟨hw, hp⟩ := predictorInv_iff.1 hs
    have hc : t'.config = s.config := he.config
    rw [predictorInv_iff, State.popHeads_config, State.popHeads_predictor, hc]
    refine ⟨hw, ?_⟩
    rcases he.predictor with hq | ⟨taken, hu⟩
    · rw [hq]; exact hp
    · exact hu.fits hw hp

theorem decodeTurn_keeps_predictorInv {s t : State} (hs : PredictorInv s) (h : decodeTurn s = .next t) :
    PredictorInv t := by
  obtain ⟨hf, hp⟩ := decodeTurn_frame h
  rw [predictorInv_iff, hf.config, hp]
  exact hs

theorem fetchTurn_keeps_predictorInv {s t : State} (hs : PredictorInv s) (h : fetchTurn s = .next t) :
    PredictorInv t := by
  rcases fetchTurn_eq_next h with ⟨_, rfl⟩ | ⟨_, h⟩
  · exact hs
  · obtain ⟨n, p, tok, hp, _, rfl⟩ := fetchStage_eq_next h
    exact ⟨hs.1, predict_fits hp hs.2⟩

/-- Settles O49: each turn of the cycle keeps the invariant; Execute's by the update of a JMP, Fetch's by the push of a
prediction. -/
theorem stepKeepsThePredictorInvariant : Obligations.StepKeepsThePredictorInvariant := by
  unfold Obligations.StepKeepsThePredictorInvariant
  intro s t hs h
  rcases step_eq_next h with ⟨_, h⟩ | ⟨_, rfl⟩
  · obtain ⟨s1, s2, h1, h2, h3⟩ := cycle_eq_next h
    have hs1 := executeTurn_keeps_predictorInv (s := s.tick) hs h1
    exact fetchTurn_keeps_predictorInv (decodeTurn_keeps_predictorInv hs1 h2) h3
  · exact hs

/-! ### No entry is ever removed -/

theorem UpdateEffect.keepsKeys {c : Config} {taken : Bool} {p p' : PredictorState} (hu : UpdateEffect c taken p p') :
    KeepsKeys BtbEntry.key p.btb p'.btb ∧ KeepsKeys DirEntry.key p.dir p'.dir := by
  constructor
  · rcases hu.btb with he | ⟨_, hp⟩
    · exact .of_eq he
    · exact hp.keepsKeys
  · rcases hu.dir with he | ⟨_, _, hp⟩
    · exact .of_eq he
    · exact hp.keepsKeys

theorem executeTurn_keepsKeys {s t : State} (h : executeTurn s = .next t) :
    KeepsKeys BtbEntry.key s.predictor.btb t.predictor.btb ∧ KeepsKeys DirEntry.key s.predictor.dir t.predictor.dir := by
  rcases executeTurn_eq_next h with ⟨_, rfl⟩ | ⟨_, u, us, t', _, he, rfl⟩
  · exact ⟨.of_eq rfl, .of_eq rfl⟩
  · rcases he.predictor with hq | ⟨_, hu⟩
    · exact ⟨.of_eq (congrArg PredictorState.btb hq), .of_eq (congrArg PredictorState.dir hq)⟩
    · exact hu.keepsKeys

/-- Settles O59: only a JMP's update writes a table, into an empty slot or over an entry with the same key. -/
theorem branchMetadataPersists : Obligations.BranchMetadataPersists := by
  unfold Obligations.BranchMetadataPersists
  intro s t h
  rcases step_frame h with rfl | ⟨s1, h1, hf⟩
  · exact ⟨KeepsKeys.of_eq rfl, KeepsKeys.of_eq rfl⟩
  · rw [hf.btb, hf.dir]
    exact executeTurn_keepsKeys (s := s.tick) h1

end Sys2Proof.Machine
end

section
/-! SUPPORT. What decodes is well formed: the tokens of a token string have no blank in them, and a token's operand form
has only registers of `GPR_NAMES` and Numbers of 64 bits (R91, R94). -/

namespace Sys2Proof

theorem not_isBlank_of_mem_splitFrom {cs acc t : Token} (ht : t ∈ splitFrom cs acc)
    (hacc : ∀ c ∈ acc, isBlank c = false) : ∀ c ∈ t, isBlank c = false := by
  induction cs generalizing acc with
  | nil =>
    cases acc with
    | nil => cases ht
    | cons a acc =>
      obtain rfl := List.mem_singleton.1 ht
      exact fun c hc => hacc c (List.mem_reverse.1 hc)
  | cons x cs ih =>
    unfold splitFrom at ht
    split at ht
    · cases acc with
      | nil => exact ih ht hacc
      | cons a acc =>
        rcases List.mem_cons.1 ht with rfl | ht
        · exact fun c hc => hacc c (List.mem_reverse.1 hc)
        · exact ih ht (fun c hc => by cases hc)
    · next hx =>
      refine ih ht fun c hc => ?_
      rcases List.mem_cons.1 hc with rfl | hc
      · simpa using hx
      · exact hacc c hc

/-- No token of a token string has a blank in it (R91). -/
theorem not_isBlank_of_mem_splitBlanks {s t : Token} (ht : t ∈ splitBlanks s) : ∀ c ∈ t, isBlank c = false :=
  not_isBlank_of_mem_splitFrom ht fun c hc => by cases hc

/-- A register token is of a register of `GPR_NAMES` (R22, R47). -/
theorem reg_mem_of_regTokOf {names : List Gpr} {t : Token} {r : RegTok} (h : regTokOf names t = some r) :
    r.reg ∈ names := by
  unfold regTokOf at h
  split at h
  · next g hg =>
    cases h
    obtain ⟨rfl, hm⟩ := gprOfName_eq_some.1 hg
    exact hm
  · split at h
    · next s g _ hg =>
      cases h
      obtain ⟨rfl, hm⟩ := gprOfName_eq_some.1 hg
      exact hm
    · cases h

/-- The operand form of a token without blanks is well formed (R94). -/
theorem operandOf_wf {names : List Gpr} {t : Token} {o : Operand} (h : operandOf names t = some o)
    (hb : ∀ c ∈ t, isBlank c = false) : o.wf names = true := by
  unfold operandOf at h
  split at h
  · cases h
  · next hcomma =>
    split at h
    · next hbr =>
      cases h
      simpa [Operand.wf, memTextWf, hbr, hcomma] using hb
    · split at h
      · next r hr =>
        cases h
        simpa [Operand.wf] using reg_mem_of_regTokOf hr
      · split at h
        · split at h
          · next hv => cases h; exact hv
          · cases h
        · cases h

theorem operandsOf_wf {names : List Gpr} {args : List Token} {ops : List Operand}
    (h : operandsOf names args = some ops) (hb : ∀ t ∈ args, ∀ c ∈ t, isBlank c = false) :
    ∀ o ∈ ops, o.wf names = true := by
  intro o ho
  have hm : some o ∈ args.map (operandOf names) := by
    rw [operandsOf_eq_some.1 h]
    exact List.mem_map_of_mem ho
  obtain ⟨t, ht, hto⟩ := List.mem_map.1 hm
  exact operandOf_wf hto (hb t ht)

@[simp] theorem Dest.wf_toOperand (names : List Gpr) (d : Dest) : d.toOperand.wf names = d.wf names := by
  cases d <;> rfl

/-- The operand `inc` and `dec` add and subtract (R101). -/
theorem Operand.wf_imm_one (names : List Gpr) : (Operand.imm 1).wf names = true := rfl

end Sys2Proof

namespace Sys2Proof.Machine

/-- An instruction spelled with well-formed operands is well formed. -/
theorem wf_of_spelledAs {names : List Gpr} {i : Instr} {m : Mnemonic} {ops : List Operand}
    (h : spelledAs i = some (m, ops)) (ho : ∀ o ∈ ops, o.wf names = true) : i.wf names = true := by
  cases i with
  | microLoad | microSto | microAdd | microSub | microCmp | microJmp | microSyscall | microNoop => cases h
  | syscall | noop => rfl
  | mov | jmp | je | jne | jg | jl | jge | jle | inc | dec | cmp =>
    cases h
    simpa [Instr.wf] using ho

/-- Whatever a token string decodes to is well formed (R94, R98). -/
theorem wf_of_decode {names : List Gpr} {t : Token} {i : Instr} (h : decode names t = .ok i) : i.wf names = true := by
  obtain ⟨m, args, ops, hs, ho, ha⟩ := decode_eq_ok h
  refine wf_of_spelledAs (spelledAs_of_assemble ha) (operandsOf_wf ho fun a hm => ?_)
  exact not_isBlank_of_mem_splitBlanks (s := t) (hs ▸ List.mem_cons_of_mem _ hm)

/-- The micro-ops of a well-formed instruction's group are well formed. -/
theorem wf_of_mem_groupOf {names : List Gpr} {i : Instr} {g : List MicroOp} (hg : groupOf i = some g)
    (hi : i.wf names = true) : ∀ u ∈ g, u.toInstr.wf names = true := by
  cases i with
  | microLoad | microSto | microAdd | microSub | microCmp | microJmp | microSyscall | microNoop => cases hg
  | jmp | je | jne | jg | jl | jge | jle =>
    cases hg
    simpa [jumpGroup, MicroOp.toInstr, Instr.wf] using hi
  | syscall | noop =>
    cases hg
    simp [MicroOp.toInstr, Instr.wf]
  | mov | cmp =>
    cases hg
    simpa [MicroOp.toInstr, Instr.wf, and_comm] using hi
  | inc | dec =>
    cases hg
    simpa [MicroOp.toInstr, Instr.wf, Operand.wf_imm_one] using hi

/-- A group that ends in a JMP has another micro-op before it (R101). -/
theorem two_le_length_of_getLast_jmp {i : Instr} {g : List MicroOp} (hg : groupOf i = some g)
    (hj : g.getLast?.map MicroOp.opcode = some .JMP) : 2 ≤ g.length := by
  cases i with
  | microLoad | microSto | microAdd | microSub | microCmp | microJmp | microSyscall | microNoop => cases hg
  | syscall | noop => cases hg; cases hj
  | mov | inc | dec | cmp | jmp | je | jne | jg | jl | jge | jle => cases hg; simp [jumpGroup]

/-- A group has at least one and at most three micro-ops (R101). -/
theorem length_groupOf {i : Instr} {g : List MicroOp} (hg : groupOf i = some g) : 1 ≤ g.length ∧ g.length ≤ 3 := by
  cases i with
  | microLoad | microSto | microAdd | microSub | microCmp | microJmp | microSyscall | microNoop => cases hg
  | mov | inc | dec | cmp | jmp | je | jne | jg | jl | jge | jle | syscall | noop => cases hg; simp [jumpGroup]

end Sys2Proof.Machine
end

section
/-! The invariant of the pipeline (O48): between Execute and Decode a weaker one holds, which Decode makes whole again. -/

namespace Sys2Proof.Machine

/-! ### Parameters -/

/-- What `Config.wf` says of the accumulator and of the capacities of the two buffers (R7, R25). -/
theorem Config.buffers_of_wf {c : Config} (h : c.wf = true) :
    c.acc ∈ c.gprNames ∧ 4 ≤ c.robCapacity ∧ 4 ≤ c.pbCapacity := by
  simp only [Config.wf, Config.namesWf, Bool.and_eq_true, decide_eq_true_eq, List.contains_iff_mem] at h
  obtain ⟨⟨⟨⟨⟨⟨⟨⟨⟨⟨⟨⟨_, hacc⟩, _⟩, _⟩, _⟩, hrob⟩, hpb⟩, _⟩, _⟩, _⟩, _⟩, _⟩, _⟩ := h
  exact ⟨hacc, hrob, hpb⟩

/-! ### The micro-ops -/

/-- A micro-op leaves the pipeline as it is or flushes it (R230). -/
theorem MicroEffect.pipeline {u : MicroOp} {s t : State} (h : MicroEffect u s t) : SamePipeline s t ∨ Flushed s t := by
  cases h with
  | jmpMismatch | halt => exact .inr ⟨rfl, rfl, rfl, rfl, rfl, rfl, rfl, rfl⟩
  | load | stoReg | stoMem | add | sub | cmp | jmpMatch | write | noop =>
    exact .inl ⟨rfl, rfl, rfl, rfl, rfl, rfl, rfl⟩

/-- A well-formed micro-op adds no register: it writes the accumulator or a register of `GPR_NAMES` (R47). -/
theorem MicroEffect.registersFit {u : MicroOp} {s t : State} (h : MicroEffect u s t) (hs : RegistersFit s)
    (hacc : s.config.acc ∈ s.config.gprNames) (hu : u.toInstr.wf s.config.gprNames = true) : RegistersFit t := by
  have hset : ∀ g w, g ∈ s.config.gprNames → (s.gpr.set g w).names = s.config.gprNames := fun g w hg =>
    (RegFile.names_set w (hs ▸ hg)).trans hs
  cases h with
  | load | add | sub => exact hset _ _ hacc
  | stoReg => exact hset _ _ (by simpa [MicroOp.toInstr, Instr.wf, Dest.wf] using hu)
  | stoMem | cmp | jmpMatch | jmpMismatch | write | halt | noop => exact hs

/-! ### Between Execute and Decode -/

/-- The invariant after Execute's turn: the pipeline buffer may have run empty, and a youngest JMP may have come to its
head, but then Decode is un-stalled. -/
structure ExecutedInv (s : State) : Prop where
  wf : s.config.wf = true
  lockStep : LockStep s
  fit : BuffersFit s
  ready : DecodeReady s
  awake : s.stall.execute = false → s.stall.decode = false
  due : s.pb.getLast?.map MicroOp.opcode = some .JMP → s.stall.decode = false
  registers : RegistersFit s
  operands : OperandsFit s

theorem PipelineInv.executedInv {s : State} (h : PipelineInv s) : ExecutedInv s := by
  obtain ⟨hw, hl, hf, hr, hi, hd, hg, ho⟩ := h
  exact ⟨hw, hl, hf, hr, fun he => (hi he).2, fun hj => (hd hj).2, hg, ho⟩

theorem ExecutedInv.length_rob {s : State} (h : ExecutedInv s) : s.rob.length = s.pb.length := by
  simpa using congrArg List.length h.lockStep

/-- Removing both heads keeps it while Decode is un-stalled. -/
theorem ExecutedInv.popHeads {s : State} (h : ExecutedInv s) (hd : s.stall.decode = false) : ExecutedInv s.popHeads where
  wf := h.wf
  lockStep := by
    have hl : s.rob.map RobEntry.opcode = s.pb.map MicroOp.opcode := h.lockStep
    simp [LockStep, circRemove, List.map_tail, hl]
  fit := by
    obtain ⟨hr, hp⟩ := h.fit
    simp only [BuffersFit, State.popHeads_rob, State.popHeads_pb, State.popHeads_config, circRemove, List.length_tail]
    omega
  ready := h.ready
  awake := h.awake
  due := fun _ => hd
  registers := h.registers
  operands := fun u hu => h.operands u (List.mem_of_mem_tail hu)

/-- The invariant carries over to a state with the same pipeline and the registers that fit. -/
theorem ExecutedInv.of_samePipeline {s t : State} (h : ExecutedInv s) (hc : t.config = s.config)
    (hp : SamePipeline s t) (hg : RegistersFit t) : ExecutedInv t := by
  obtain ⟨_, _, _, hcir, hstall, hrob, hpb⟩ := hp
  refine ⟨hc ▸ h.wf, ?_, ?_, ?_, ?_, ?_, hg, ?_⟩
  · simpa [LockStep, hrob, hpb] using h.lockStep
  · simpa [BuffersFit, hrob, hpb, hc] using h.fit
  · simpa [DecodeReady, hstall, hcir] using h.ready
  · simpa [hstall] using h.awake
  · simpa [hstall, hpb] using h.due
  · simpa [OperandsFit, hpb, hc] using h.operands

/-- A flushed pipeline has nothing in flight to ask anything of. -/
theorem ExecutedInv.of_flushed {s t : State} (hw : t.config.wf = true) (hf : Flushed s t) (hg : RegistersFit t) :
    ExecutedInv t := by
  obtain ⟨hrob, hpb, _, _, _, hdec, hexe, _⟩ := hf
  refine ⟨hw, by simp [LockStep, hrob, hpb], by simp [BuffersFit, hrob, hpb], fun h => ?_, fun h => ?_, fun h => ?_, hg,
    fun u hu => ?_⟩
  · simp [hdec] at h
  · simp [hexe] at h
  · simp [hpb] at h
  · simp [hpb] at hu

theorem State.popHeads_of_flushed {s t : State} (hf : Flushed s t) : t.popHeads = t := by
  obtain ⟨hrob, hpb, _⟩ := hf
  cases t
  cases hrob
  cases hpb
  rfl

theorem executeTurn_executedInv {s t : State} (hs : PipelineInv s) (h : executeTurn s = .next t) : ExecutedInv t := by
  rcases executeTurn_eq_next h with ⟨_, rfl⟩ | ⟨hx, u, us, t', hu, he, rfl⟩
  · exact hs.executedInv
  · have hi : ExecutedInv (s.traceExecuted u) := PipelineInv.executedInv (s := s.traceExecuted u) hs
    have hg : RegistersFit t' := he.registersFit hi.registers (Config.buffers_of_wf hi.wf).1
      (hi.operands u (hu ▸ List.mem_cons_self))
    rcases he.pipeline with hp | hf
    · refine (hi.of_samePipeline he.config hp hg).popHeads ?_
      obtain ⟨_, _, _, _, hstall, _⟩ := hp
      rw [hstall]
      exact hi.awake hx
    · rw [State.popHeads_of_flushed hf]
      exact .of_flushed (he.config ▸ hi.wf) hf hg

/-! ### Decode -/

/-- A group without room finds at least two micro-ops in flight: the buffers hold four and a group is at most three. -/
theorem ExecutedInv.two_le_length_pb {s : State} (hs : ExecutedInv s) {g : List MicroOp} (hg : g.length ≤ 3)
    (hr : hasRoom s g = false) : 2 ≤ s.pb.length := by
  obtain ⟨_, hrc, hpc⟩ := Config.buffers_of_wf hs.wf
  have hl := hs.length_rob
  have hn : ¬(g.length ≤ s.config.robCapacity - s.rob.length ∧ g.length ≤ s.config.pbCapacity - s.pb.length) := by
    rw [← hasRoom_iff, hr]
    exact Bool.false_ne_true
  omega

/-- The whole group of an instruction enters both buffers, and the invariant is whole. -/
theorem ExecutedInv.insert {s : State} (hs : ExecutedInv s) (hd : s.stall.decode = false) {i : Instr} {g : List MicroOp}
    (hg : groupOf i = some g) (hi : i.wf s.config.gprNames = true) (hr : hasRoom s g = true) (loc : Int) (spec : Bool) :
    PipelineInv { s with
      rob := s.rob ++ g.map (robEntry loc spec)
      pb := s.pb ++ g
      lastDecoded := g
      stall := ⟨false, s.stall.decode, false⟩ } := by
  obtain ⟨hrr, hrp⟩ := hasRoom_iff.1 hr
  obtain ⟨hg1, _⟩ := length_groupOf hg
  have hne : g ≠ [] := List.ne_nil_of_length_pos hg1
  obtain ⟨hfr, hfp⟩ := hs.fit
  have hop : RobEntry.opcode ∘ robEntry loc spec = MicroOp.opcode := rfl
  refine ⟨hs.wf, ?_, ?_, hs.ready, fun _ => ⟨by simp [hne], hd⟩, fun hj => ⟨?_, hd⟩, hs.registers, fun u hu => ?_⟩
  · have hl : s.rob.map RobEntry.opcode = s.pb.map MicroOp.opcode := hs.lockStep
    simp [LockStep, hl, hop]
  · simp only [BuffersFit, List.length_append, List.length_map]
    omega
  · rw [List.getLast?_append_of_ne_nil _ hne] at hj
    have := two_le_length_of_getLast_jmp hg hj
    simp only [List.length_append]
    omega
  · rcases List.mem_append.1 hu with hu | hu
    · exact hs.operands u hu
    · exact wf_of_mem_groupOf hg hi u hu

/-- Without room only Fetch's flag changes; there are micro-ops enough in flight for the invariant to be whole. -/
theorem ExecutedInv.stallFetch {s : State} (hs : ExecutedInv s) (hd : s.stall.decode = false) (hl : 2 ≤ s.pb.length) :
    PipelineInv (s.setStallFetch true) :=
  ⟨hs.wf, hs.lockStep, hs.fit, hs.ready, fun _ => ⟨List.ne_nil_of_length_pos (l := s.pb) (by omega), hd⟩, fun _ => ⟨hl, hd⟩,
    hs.registers, hs.operands⟩

/-- With Decode stalled, Execute is too and no JMP is the youngest micro-op: the invariant is whole. -/
theorem ExecutedInv.pipelineInv_of_stalled {s : State} (hs : ExecutedInv s) (hd : s.stall.decode = true) :
    PipelineInv s := by
  have hne : s.stall.decode ≠ false := by simp [hd]
  exact ⟨hs.wf, hs.lockStep, hs.fit, hs.ready, fun he => absurd (hs.awake he) hne, fun hj => absurd (hs.due hj) hne,
    hs.registers, hs.operands⟩

theorem decodeTurn_pipelineInv {s t : State} (hs : ExecutedInv s) (h : decodeTurn s = .next t) : PipelineInv t := by
  rcases decodeTurn_eq_next h with ⟨hd, rfl⟩ | ⟨hd, h⟩
  · exact hs.pipelineInv_of_stalled hd
  · obtain ⟨_, i, g, _, hi, hg, hissue⟩ := decodeStage_issues h
    obtain ⟨f, _, ⟨hr, rfl⟩ | ⟨hr, rfl⟩⟩ := issue_eq_next hissue
    · exact hs.insert hd hg (wf_of_decode hi) hr _ _
    · exact hs.stallFetch hd (hs.two_le_length_pb (length_groupOf hg).2 hr)

/-! ### Fetch -/

theorem fetchTurn_keeps_pipelineInv {s t : State} (hs : PipelineInv s) (h : fetchTurn s = .next t) : PipelineInv t := by
  rcases fetchTurn_eq_next h with ⟨_, rfl⟩ | ⟨_, h⟩
  · exact hs
  · obtain ⟨n, p, tok, _, _, rfl⟩ := fetchStage_eq_next h
    obtain ⟨hw, hl, hf, _, hi, hd, hg, ho⟩ := hs
    exact ⟨hw, hl, hf, fun _ => by simp [latchFetch], fun he => ⟨(hi he).1, rfl⟩, fun hj => ⟨(hd hj).1, rfl⟩, hg, ho⟩

/-- Settles O48: Execute's turn leaves the invariant of the middle of a cycle, Decode's makes it whole, and Fetch's
keeps it. -/
theorem stepKeepsThePipelineInvariant : Obligations.StepKeepsThePipelineInvariant := by
  unfold Obligations.StepKeepsThePipelineInvariant
  intro s t hs h
  rcases step_eq_next h with ⟨_, h⟩ | ⟨_, rfl⟩
  · obtain ⟨s1, s2, h1, h2, h3⟩ := cycle_eq_next h
    have hs1 := executeTurn_executedInv (s := s.tick) hs h1
    exact fetchTurn_keeps_pipelineInv (decodeTurn_pipelineInv hs1 h2) h3
  · exact hs

end Sys2Proof.Machine
end

section
/-! The results (O51) and the flags (O55): only a JMP adds to the first, and only a CMP writes the second. -/

namespace Sys2Proof.Machine

/-! ### The result lists -/

/-- A micro-op leaves both result lists as they are, or adds the cycle's number to one of them (R267). -/
theorem MicroEffect.results {u : MicroOp} {s t : State} (h : MicroEffect u s t) :
    t.cycle = s.cycle ∧
    ((t.predicted = s.predicted ∧ t.mispredicted = s.mispredicted) ∨
     (t.predicted = s.predicted ++ [s.cycleNumber] ∧ t.mispredicted = s.mispredicted) ∨
     (t.predicted = s.predicted ∧ t.mispredicted = s.mispredicted ++ [s.cycleNumber])) := by
  cases h with
  | jmpMatch => exact ⟨rfl, .inr (.inl ⟨rfl, rfl⟩)⟩
  | jmpMismatch => exact ⟨rfl, .inr (.inr ⟨rfl, rfl⟩)⟩
  | load | stoReg | stoMem | add | sub | cmp | write | halt | noop => exact ⟨rfl, .inl ⟨rfl, rfl⟩⟩

/-- What a step does to the results and the cycle count: one cycle is counted, and its number is added to one of the
lists or to none (R34, R35); a Halted machine stays. -/
theorem step_results {s t : State} (h : step s = .next t) :
    t = s ∨ (t.config = s.config ∧ t.cycle = s.cycle + 1 ∧
      ((t.predicted = s.predicted ∧ t.mispredicted = s.mispredicted) ∨
       (t.predicted = s.predicted ++ [s.tick.cycleNumber] ∧ t.mispredicted = s.mispredicted) ∨
       (t.predicted = s.predicted ∧ t.mispredicted = s.mispredicted ++ [s.tick.cycleNumber]))) := by
  rcases step_frame h with rfl | ⟨s1, h1, hf⟩
  · exact .inl rfl
  · rw [hf.config, hf.cycle, hf.predicted, hf.mispredicted]
    rcases executeTurn_eq_next h1 with ⟨_, rfl⟩ | ⟨_, u, us, t', _, he, rfl⟩
    · exact .inr ⟨rfl, rfl, .inl ⟨rfl, rfl⟩⟩
    · obtain ⟨hc, hr⟩ := he.results
      exact .inr ⟨he.config, hc, hr⟩

/-- What `ResultsInv` asks of the two lists, with a bound on the cycle numbers. -/
def ResultLists (b : Nat) (p m : List Nat) : Prop :=
  p.Pairwise (· < ·) ∧ m.Pairwise (· < ·) ∧ (∀ n ∈ p, n ∉ m) ∧ ∀ n ∈ p ++ m, n < b

theorem resultsInv_iff {s : State} :
    ResultsInv s ↔ ResultLists (s.cycle + s.config.cycleBase) s.predicted s.mispredicted := Iff.rfl

section
variable {b : Nat} {p m : List Nat}

theorem ResultLists.symm (h : ResultLists b p m) : ResultLists b m p := by
  obtain ⟨hp, hm, hd, hb⟩ := h
  exact ⟨hm, hp, fun n hn hn' => hd n hn' hn, fun n hn => hb n (List.mem_append.2 (List.mem_append.1 hn).symm)⟩

theorem ResultLists.succ (h : ResultLists b p m) : ResultLists (b + 1) p m := by
  obtain ⟨hp, hm, hd, hb⟩ := h
  exact ⟨hp, hm, hd, fun n hn => Nat.lt_succ_of_lt (hb n hn)⟩

/-- The bound itself may be appended: it is above every number of both lists. -/
theorem ResultLists.push (h : ResultLists b p m) : ResultLists (b + 1) (p ++ [b]) m := by
  obtain ⟨hp, hm, hd, hb⟩ := h
  have hbp : ∀ n ∈ p, n < b := fun n hn => hb n (List.mem_append_left m hn)
  have hbm : ∀ n ∈ m, n < b := fun n hn => hb n (List.mem_append_right p hn)
  refine ⟨List.pairwise_append.2 ⟨hp, List.pairwise_singleton _ _, fun n hn k hk => ?_⟩, hm, fun n hn => ?_, fun n hn => ?_⟩
  · rw [List.mem_singleton.1 hk]
    exact hbp n hn
  · rcases List.mem_append.1 hn with hn | hn
    · exact hd n hn
    · rw [List.mem_singleton.1 hn]
      exact fun hm => lt_irrefl b (hbm b hm)
  · rcases List.mem_append.1 hn with hn | hn
    · rcases List.mem_append.1 hn with hn | hn
      · exact Nat.lt_succ_of_lt (hbp n hn)
      · rw [List.mem_singleton.1 hn]
        exact Nat.lt_succ_self b
    · exact Nat.lt_succ_of_lt (hbm n hn)

end

/-- The number a new cycle carries is the bound of the numbers before it (R34, R35). -/
theorem State.tick_cycleNumber (s : State) : s.tick.cycleNumber = s.cycle + s.config.cycleBase := by
  simp only [State.cycleNumber, State.tick_cycle, State.tick_config]
  omega

/-- Settles O51: the one number a step may add is the new cycle's, which is above all numbers of both lists. -/
theorem stepKeepsTheResultListsAscending : Obligations.StepKeepsTheResultListsAscending := by
  unfold Obligations.StepKeepsTheResultListsAscending
  intro s t hs h
  rcases step_results h with rfl | ⟨hc, hcyc, hl⟩
  · exact ⟨hs, Nat.le_succ _⟩
  · have hs' := resultsInv_iff.1 hs
    have hb : t.cycle + t.config.cycleBase = s.cycle + s.config.cycleBase + 1 := by rw [hc, hcyc]; omega
    rw [State.tick_cycleNumber] at hl
    rw [resultsInv_iff, hb]
    rcases hl with ⟨hp, hm⟩ | ⟨hp, hm⟩ | ⟨hp, hm⟩
    · rw [hp, hm]
      exact ⟨hs'.succ, Nat.le_succ _⟩
    · rw [hp, hm]
      exact ⟨hs'.push, by simp only [List.length_append, List.length_singleton]; omega⟩
    · rw [hp, hm]
      exact ⟨hs'.symm.push.symm, by simp only [List.length_append, List.length_singleton]; omega⟩

/-! ### The flags -/

/-- A micro-op leaves the flags as they are, or is a CMP and sets those of its difference (R266). -/
theorem MicroEffect.flags {u : MicroOp} {s t : State} (h : MicroEffect u s t) :
    t.flags = s.flags ∨ ∃ a w d, u = .cmp a w ∧ t.flags = flagsOf s.config.parity d := by
  cases h with
  | cmp => exact .inr ⟨_, _, _, rfl, rfl⟩
  | load | stoReg | stoMem | add | sub | jmpMatch | jmpMismatch | write | halt | noop => exact .inl rfl

/-- SF and ZF of one difference are never both set (R266). -/
theorem flagsOf_sf_zf (p : ParityFn) (d : Int) : ¬((flagsOf p d).sf = true ∧ (flagsOf p d).zf = true) := by
  rintro ⟨hs, hz⟩
  have hs : d < 0 := of_decide_eq_true hs
  have hz : d = 0 := of_decide_eq_true hz
  omega

/-- A step leaves the flags as they are, or executes a CMP and sets those of a difference. -/
theorem step_flags {s t : State} (h : step s = .next t) :
    t.flags = s.flags ∨
    (s.stall.execute = false ∧ (∃ a w, s.pb.head? = some (.cmp a w)) ∧ ∃ d, t.flags = flagsOf s.config.parity d) := by
  rcases step_frame h with rfl | ⟨s1, h1, hf⟩
  · exact .inl rfl
  · rw [hf.flags]
    rcases executeTurn_eq_next h1 with ⟨_, rfl⟩ | ⟨hx, u, us, t', hu, he, rfl⟩
    · exact .inl rfl
    · rcases he.flags with hfl | ⟨a, w, d, rfl, hfl⟩
      · exact .inl hfl
      · exact .inr ⟨hx, ⟨a, w, congrArg List.head? hu⟩, d, hfl⟩

/-- Settles O55: the flags are those before the step, or a CMP's of one difference. -/
theorem onlyCmpChangesTheFlags : Obligations.OnlyCmpChangesTheFlags := by
  unfold Obligations.OnlyCmpChangesTheFlags
  intro s t h
  rcases step_flags h with hfl | ⟨hx, hu, d, hfl⟩
  · refine ⟨fun hne => absurd hfl hne, fun hs => ?_⟩
    unfold FlagsInv
    rw [hfl]
    exact hs
  · refine ⟨fun _ => ⟨hx, hu⟩, fun _ => ?_⟩
    unfold FlagsInv
    rw [hfl]
    exact flagsOf_sf_zf _ d

end Sys2Proof.Machine
end

section
/-! The register views (O12). -/

namespace Sys2Proof.Machine

/-- A narrow view reads as the register modulo its range (R23). -/
theorem readView_narrow {v : Width} (hv : v ≠ .eight) (w : Word) :
    readView v w = (w.toNat % 2 ^ (8 * v.bytes) : Nat) := by
  cases v with
  | eight => exact absurd rfl hv
  | one | two | four => simp [readView, Width.bytes]

/-- The low `k` bits of one word below the other bits of another. -/
theorem getLsbD_extract_append (old new : Word) {k l i : Nat} (hi : i < k + l) :
    (old.extractLsb' k l ++ new.extractLsb' 0 k).getLsbD i = if i < k then new.getLsbD i else old.getLsbD i := by
  simp only [BitVec.getLsbD_append, BitVec.getLsbD_extractLsb']
  split
  · next hlt => simp [hlt]
  · next hge => rw [decide_eq_true (by omega), Bool.true_and, Nat.add_sub_cancel' (Nat.not_lt.1 hge)]

/-- A write through a view replaces the low bytes and keeps the bytes above, bit by bit (R24). -/
theorem getLsbD_writeView (v : Width) (old : Word) (n : Int) {i : Nat} (hi : i < 64) :
    (writeView v old n).getLsbD i = if i < 8 * v.bytes then (toWord n).getLsbD i else old.getLsbD i := by
  cases v with
  | eight => exact (if_pos (show i < 8 * 8 from hi)).symm
  | one | two | four => exact getLsbD_extract_append old (toWord n) hi

/-- Settles O12: what a view reads is the low bytes, and what a write does is said bit by bit and register by register. -/
theorem registerViewsAreTheLowBytes : Obligations.RegisterViewsAreTheLowBytes := by
  unfold Obligations.RegisterViewsAreTheLowBytes
  intro s t
  refine ⟨fun hv => ?_, fun hv => readView_narrow hv _, fun v i hi => ?_, fun v => ⟨fun hg => ?_, fun g hg => ?_⟩⟩
  · have hr : s.regRead t = sint64 (s.reg t.reg) := by rw [State.regRead, hv]; rfl
    rw [hr]
    exact ⟨rfl, BitVec.le_toInt _, BitVec.toInt_lt⟩
  · rw [State.regWrite, State.reg_setReg_same]
    exact getLsbD_writeView _ _ _ hi
  · exact State.names_setReg _ hg
  · exact State.reg_setReg_other s _ hg

end Sys2Proof.Machine
end

section
/-! Reset and load: the reset values (O1), and the invariants at the start of a run (O52). -/

namespace Sys2Proof.Machine

/-- What `boot` answers is the load of a well-formed executable with its header (R63). -/
theorem boot_eq_next {c : Config} {exe : Executable} {s : State} (h : boot c exe = .next s) :
    ∃ ts ds rest, exe = .number ts :: .number ds :: rest ∧ executableWf c exe = true ∧ s = State.loaded c ts ds exe := by
  unfold boot at h
  split at h
  · next ts ds rest =>
    split at h
    · next hw => cases h; exact ⟨ts, ds, rest, rfl, hw, rfl⟩
    · cases h
  · cases h

/-- Cell i of a load is element i of the executable (R62). -/
theorem read_loaded (c : Config) (ts ds : Int) (exe : Executable) (i : Nat) :
    (State.loaded c ts ds exe).mem.read i = exe[i]? := by
  have h := read_loadFrom 0 exe i
  rwa [Nat.zero_add] at h

/-- Settles O1: the load of a well-formed executable is the unloaded machine with its header and its cells. -/
theorem bootLeavesTheResetValues : Obligations.BootLeavesTheResetValues := by
  unfold Obligations.BootLeavesTheResetValues
  intro c ts ds rest hw
  refine ⟨State.loaded c ts ds (.number ts :: .number ds :: rest), if_pos hw, ?_⟩
  refine ⟨rfl, RegFile.names_zero _, RegFile.get_zero _, ?_⟩
  refine ⟨rfl, rfl, rfl, rfl, rfl, rfl, rfl, rfl, rfl, rfl, rfl, rfl, rfl, rfl, rfl, rfl, rfl, rfl, rfl, rfl, rfl, rfl,
    rfl, ?_⟩
  exact read_loaded c ts ds _

/-! ### The invariants -/

theorem unloaded_pipelineInv {c : Config} (hw : c.wf = true) : PipelineInv (State.unloaded c) := by
  refine ⟨hw, rfl, ⟨Nat.zero_le _, Nat.zero_le _⟩, ?_, ?_, ?_, RegFile.names_zero _, ?_⟩
  · intro h; cases h
  · intro h; cases h
  · intro h; cases h
  · intro u hu; cases hu

/-- No slot of an empty table is occupied. -/
theorem slotAt_replicate {α : Type} (n j : Nat) : slotAt (List.replicate n (none : Option α)) j = none := by
  unfold slotAt
  rw [List.getElem?_replicate]
  split <;> rfl

theorem unloaded_predictorInv {c : Config} (hw : c.wf = true) : PredictorInv (State.unloaded c) := by
  have hempty : ∀ {α : Type} {n j : Nat} {x : α}, slotAt (List.replicate n none) j ≠ some x := fun h => by
    rw [slotAt_replicate] at h
    cases h
  exact ⟨hw, ⟨List.length_replicate, Nat.zero_le _⟩,
    ⟨List.length_replicate, List.length_replicate, fun j x h => absurd h hempty, fun j x h => absurd h hempty⟩,
    fun j e h => absurd h hempty⟩

theorem unloaded_resultsInv (c : Config) : ResultsInv (State.unloaded c) :=
  ⟨.nil, .nil, List.forall_mem_nil _, List.forall_mem_nil _⟩

theorem unloaded_flagsInv (c : Config) : FlagsInv (State.unloaded c) := fun h => Bool.false_ne_true h.1

/-! ### Memory after the load -/

/-- The elements of a well-formed executable lie in its header, between header and text, in its text, or in its data. -/
theorem mem_parts {ts ds : Int} {rest : Executable} (hts : 2 ≤ ts) (htd : ts ≤ ds) {x : Content}
    (hx : x ∈ (.number ts :: .number ds :: rest : Executable)) :
    (x = .number ts ∨ x = .number ds) ∨ x ∈ rest.take (ts.toNat - 2) ∨
    x ∈ ((.number ts :: .number ds :: rest : Executable).take ds.toNat).drop ts.toNat ∨
    x ∈ (.number ts :: .number ds :: rest : Executable).drop ds.toNat := by
  rw [← List.take_append_drop ds.toNat (_ :: _), List.mem_append,
    ← List.take_append_drop ts.toNat (List.take _ _), List.mem_append, List.take_take] at hx
  have hmin : min ts.toNat ds.toNat = ts.toNat - 2 + 2 := by omega
  rw [hmin, List.take_succ_cons, List.take_succ_cons, List.mem_cons, List.mem_cons] at hx
  tauto

/-- Every integer of a well-formed executable is one of 64 bits: the header by its place in the executable, the others
by R63. -/
theorem isToken_or_isInt64_of_mem {c : Config} {exe : Executable} (hm : c.memSize < 2 ^ 63)
    (hw : executableWf c exe = true) {x : Content} (hx : x ∈ exe) : x.isToken = true ∨ x.isInt64 = true := by
  unfold executableWf at hw
  split at hw
  · next ts ds rest =>
    simp only [Bool.and_eq_true, decide_eq_true_eq, List.all_eq_true, Bool.or_eq_true] at hw
    obtain ⟨⟨⟨⟨⟨⟨hts, htd⟩, hdl⟩, hgap⟩, htext⟩, hdata⟩, hlen⟩ := hw
    have hhead : ∀ v : Int, 2 ≤ v → v ≤ ds → (Content.number v).isInt64 = true := fun v h2 hv => by
      simp only [Content.isInt64, inInt64, Bool.and_eq_true, decide_eq_true_eq]
      omega
    rcases mem_parts hts htd hx with (rfl | rfl) | hx | hx | hx
    · exact .inr (hhead ts hts htd)
    · exact .inr (hhead ds (hts.trans htd) le_rfl)
    · exact hgap x hx
    · exact .inl (htext x hx)
    · exact .inr (hdata x hx)
  · cases hw

theorem length_le_memSize_of_wf {c : Config} {exe : Executable} (hw : executableWf c exe = true) :
    exe.length ≤ c.memSize := by
  unfold executableWf at hw
  split at hw
  · simp only [Bool.and_eq_true, decide_eq_true_eq] at hw
    obtain ⟨_, hlen⟩ := hw
    exact hlen
  · cases hw

theorem loaded_memoryInv {c : Config} {ts ds : Int} {exe : Executable} (hm : c.memSize < 2 ^ 63)
    (hw : executableWf c exe = true) : MemoryInv (State.loaded c ts ds exe) := by
  refine ⟨loadFrom_wf 0 exe, fun a x ha => ?_⟩
  rw [read_loaded] at ha
  obtain ⟨hlt, _⟩ := List.getElem?_eq_some_iff.1 ha
  refine ⟨hlt.trans_le (length_le_memSize_of_wf hw), fun v hv => ?_⟩
  subst hv
  rcases isToken_or_isInt64_of_mem hm hw (List.mem_of_getElem? ha) with ht | hi
  · cases ht
  · exact hi

theorem reset_memoryInv : MemoryInv State.reset :=
  ⟨reset_mem_wf, fun _ _ ha => by cases ha⟩

/-- Settles O52: an invariant that does not read `rip`, the segment registers or memory holds of the load as of the
unloaded machine; that of memory is the executable's well-formedness. -/
theorem resetMeetsTheInvariants : Obligations.ResetMeetsTheInvariants := by
  unfold Obligations.ResetMeetsTheInvariants
  have hdefault : Config.default.wf = true := by decide
  refine ⟨fun c exe s hw hm h => ?_, unloaded_pipelineInv hdefault, unloaded_predictorInv hdefault, reset_memoryInv,
    unloaded_resultsInv _, unloaded_flagsInv _⟩
  obtain ⟨ts, ds, rest, _, hexe, rfl⟩ := boot_eq_next h
  exact ⟨unloaded_pipelineInv hw, unloaded_predictorInv hw, loaded_memoryInv hm hexe, unloaded_resultsInv c,
    unloaded_flagsInv c⟩

end Sys2Proof.Machine
end

section
/-! Noninterference of what nothing reads (O60): an operation that forgets it may be run on the forgotten state. -/

namespace Sys2Proof.Machine

/-- The operation answers the same, but for what nothing reads, when that is cleared before it. -/
def Insensitive (f : State → Result State) : Prop := ∀ s, forgetResult (f s) = forgetResult (f s.forget)

theorem Insensitive.of_next {f : State → State} (h : ∀ s, (f s).forget = (f s.forget).forget) :
    Insensitive fun s => .next (f s) := fun s => congrArg Host.Outcome.next (h s)

/-- Two answers alike but for what nothing reads stay so through an insensitive operation. -/
theorem forgetResult_andThen {x y : Result State} {g : State → Result State} (hg : Insensitive g)
    (h : forgetResult x = forgetResult y) : forgetResult (andThen x g) = forgetResult (andThen y g) := by
  cases x with
  | next a =>
    cases y with
    | next b =>
      have hab : a.forget = b.forget := by
        simpa [forgetResult] using h
      rw [andThen_next, andThen_next, hg a, hg b, hab]
    | fault r => cases h
    | refused r => cases h
  | fault r =>
    cases y with
    | next b => cases h
    | fault r' => cases h; rfl
    | refused r' => cases h
  | refused r =>
    cases y with
    | next b => cases h
    | fault r' => cases h
    | refused r' => cases h; rfl

theorem Insensitive.andThen {f g : State → Result State} (hf : Insensitive f) (hg : Insensitive g) :
    Insensitive fun s => andThen (f s) g := fun s => forgetResult_andThen hg (hf s)

/-- An insensitive use of a value that does not depend on what nothing reads. -/
theorem Insensitive.bind {α : Type} {v : State → Result α} {f : α → State → Result State}
    (hv : ∀ s : State, v s.forget = v s) (hf : ∀ a, Insensitive (f a)) :
    Insensitive fun s => Machine.andThen (v s) fun a => f a s := by
  intro s
  show forgetResult (Machine.andThen (v s) _) = forgetResult (Machine.andThen (v s.forget) _)
  rw [hv]
  cases v s with
  | next a => exact hf a s
  | fault r => rfl
  | refused r => rfl

/-- A choice by a test of what the machine reads. -/
theorem Insensitive.ite {c : State → Prop} [∀ s, Decidable (c s)] {f g : State → Result State}
    (hc : ∀ s : State, c s.forget ↔ c s) (hf : Insensitive f) (hg : Insensitive g) :
    Insensitive fun s => if c s then f s else g s := by
  intro s
  by_cases h : c s
  · simpa only [if_pos h, if_pos ((hc s).2 h)] using hf s
  · simpa only [if_neg h, if_neg (mt (hc s).1 h)] using hg s

theorem Insensitive.comp {f : State → Result State} {k : State → State} (hf : Insensitive f)
    (hk : ∀ s, (k s).forget = (k s.forget).forget) : Insensitive fun s => f (k s) := by
  intro s
  show forgetResult (f (k s)) = forgetResult (f (k s.forget))
  rw [hf (k s), hf (k s.forget), hk]

theorem Insensitive.next : Insensitive .next := fun _ => rfl

/-! ### The reads -/

theorem fetchToken_forget (n : Int) (s : State) : fetchToken s.forget n = fetchToken s n := rfl

theorem operandVal_forget (o : Operand) (s : State) : operandVal s.forget o = operandVal s o := by
  cases o <;> rfl

theorem readCells_forget (n : Nat) (a : Int) (s : State) : readCells s.forget n a = readCells s n a := by
  induction n generalizing a with
  | zero => rfl
  | succ n ih =>
    unfold readCells
    simp only [ih]
    rfl

/-- No condition reads PF (R31, R268). -/
theorem condHolds_forget (c : Cond) (s : State) : condHolds c s.forget.flags = condHolds c s.flags := by
  cases c <;> rfl

/-! ### Execute -/

theorem storeDest_insensitive (d : Dest) (w : Width) : Insensitive fun s => storeDest s (s.accRead w) d := by
  cases d with
  | reg r => exact .of_next fun _ => rfl
  | mem e =>
    refine .bind (fun _ => rfl) fun a => ?_
    exact .ite (fun _ => Iff.rfl) (.of_next fun _ => rfl) fun _ => rfl

theorem settleBranch_forget (s : State) (loc dest : Int) (met succ : Bool) :
    (settleBranch s loc dest met succ).forget = (settleBranch s.forget loc dest met succ).forget := by
  unfold settleBranch
  split <;> rfl

theorem resolveBranch_insensitive (loc : Int) (c : Cond) (succ : Bool) :
    Insensitive fun s => resolveBranch s loc (sint64 s.accWord) (condHolds c s.flags) succ := by
  refine .bind (v := fun s => update s.config s.predictor loc (sint64 s.accWord) (condHolds c s.flags))
    (fun s => by rw [condHolds_forget]; rfl) fun p => .of_next fun s => ?_
  rw [condHolds_forget]
  exact congrArg (fun t : State => t.setPredictor (stallAfter s.config (condHolds c s.flags) succ p))
    (settleBranch_forget s loc (sint64 s.accWord) (condHolds c s.flags) succ)

theorem execMicroJmp_insensitive (c : Cond) (w : Width) : Insensitive (execMicroJmp c w) :=
  .bind (fun _ => rfl) fun r => .bind (fun _ => rfl) fun x => resolveBranch_insensitive r.issuing c x.speculative

theorem execMicroSyscall_insensitive (w : Width) : Insensitive (execMicroSyscall w) := by
  refine .ite (fun _ => Iff.rfl) ?_ (.ite (fun _ => Iff.rfl) (.of_next fun _ => rfl) fun _ => rfl)
  exact .bind (fun s => readCells_forget _ _ s) fun cs => .of_next fun _ => rfl

/-! ### Decode -/

theorem insertGroup_insensitive (spec : Bool) (g : List MicroOp) :
    Insensitive fun s => insertGroup s (sint64 s.rip) spec g :=
  .bind (fun _ => rfl) fun _ => .bind (fun _ => rfl) fun _ => .of_next fun _ => rfl

theorem issue_insensitive (g : List MicroOp) : Insensitive (issue g) := by
  intro s
  have hcir : s.forget.cir = s.cir := rfl
  unfold issue
  rw [hcir]
  cases s.cir with
  | none => rfl
  | some f =>
    exact Insensitive.ite (c := fun s => hasRoom s g = true) (fun _ => Iff.rfl) (insertGroup_insensitive f.speculative g)
      (.of_next (f := fun s => s.setStallFetch true) fun _ => rfl) s

/-- No instruction's meaning reads what is forgotten. -/
theorem exec_insensitive (i : Instr) : Insensitive (exec i) := by
  cases i with
  | mov | jmp | je | jne | jg | jl | jge | jle | inc | dec | cmp | syscall | noop => exact issue_insensitive _
  | microLoad a w | microAdd a w | microSub a w | microCmp a w =>
    exact .bind (operandVal_forget a) fun v => .of_next fun _ => rfl
  | microSto d w => exact storeDest_insensitive d w
  | microJmp c w => exact execMicroJmp_insensitive c w
  | microSyscall w => exact execMicroSyscall_insensitive w
  | microNoop w => exact .next

theorem executeStage_insensitive : Insensitive executeStage :=
  .ite (fun _ => Iff.rfl) .next <| .bind (fun _ => rfl) fun u => .bind (fun _ => rfl) fun _ =>
    .andThen (.comp (exec_insensitive u.toInstr) fun _ => rfl) (.of_next fun _ => rfl)

theorem decodeStage_insensitive : Insensitive decodeStage := by
  intro s
  have hcir : s.forget.cir = s.cir := rfl
  have hnames : s.forget.config.gprNames = s.config.gprNames := rfl
  unfold decodeStage
  rw [hcir]
  cases s.cir with
  | none => rfl
  | some f =>
    rw [hnames]
    cases hd : decode s.config.gprNames f.token with
    | error e => simp only [hd]
    | ok i => simpa only [hd] using exec_insensitive i s

theorem fetchStage_insensitive : Insensitive fetchStage :=
  .bind (fun _ => rfl) fun r => .bind (fun s => fetchToken_forget r.1 s) fun _ => .of_next fun _ => rfl

/-! ### The cycle -/

theorem cycle_insensitive : Insensitive cycle :=
  .andThen (.comp (.ite (fun _ => Iff.rfl) .next executeStage_insensitive) fun _ => rfl) <|
    .andThen (.ite (fun _ => Iff.rfl) .next decodeStage_insensitive)
      (.ite (fun _ => Iff.rfl) (.of_next fun _ => rfl) fetchStage_insensitive)

/-- Settles O60: each part of the cycle forgets what nothing reads, so the whole does. -/
theorem debugRegistersInfluenceNothing : Obligations.DebugRegistersInfluenceNothing :=
  Insensitive.ite (fun _ => Iff.rfl) cycle_insensitive .next

end Sys2Proof.Machine
end

section
/-! Memory: what a step writes (O56), the invariant it keeps (O50), and which executables the load refuses (O2). -/

namespace Sys2Proof.Machine

/-! ### What a step writes -/

/-- A micro-op leaves memory as it is, or is a STO to Memory and writes the one cell at the AGU's address (R65, R263). -/
theorem MicroEffect.mem {u : MicroOp} {s t : State} (h : MicroEffect u s t) :
    t.mem = s.mem ∨
    ∃ e w a, u = .sto (.mem e) w ∧ generate e s.gpr = .next a ∧ s.inRange a = true ∧
      t.mem = s.mem.write a.toNat (.number (s.accRead w)) := by
  cases h with
  | stoMem ha hr => exact .inr ⟨_, _, _, rfl, ha, hr, rfl⟩
  | load | stoReg | add | sub | cmp | jmpMatch | jmpMismatch | write | halt | noop => exact .inl rfl

/-- A step leaves memory as it is, or executes a STO to Memory and writes the one cell at the AGU's address (R65, R71). -/
theorem step_mem {s t : State} (h : step s = .next t) :
    t.mem = s.mem ∨
    (s.stall.execute = false ∧ ∃ e w a, s.pb.head? = some (.sto (.mem e) w) ∧ generate e s.gpr = .next a ∧
      s.inRange a = true ∧ t.mem = s.mem.write a.toNat (.number (s.accRead w))) := by
  rcases step_frame h with rfl | ⟨s1, h1, hf⟩
  · exact .inl rfl
  · rw [hf.mem]
    rcases executeTurn_eq_next h1 with ⟨_, rfl⟩ | ⟨hx, u, us, t', hu, he, rfl⟩
    · exact .inl rfl
    · rcases he.mem with hm | ⟨e, w, a, rfl, ha, hr, hm⟩
      · exact .inl hm
      · exact .inr ⟨hx, e, w, a, congrArg List.head? hu, ha, hr, hm⟩

/-- No step changes the parameters (R46). -/
theorem step_config {s t : State} (h : step s = .next t) : t.config = s.config := by
  rcases step_frame h with rfl | ⟨s1, h1, hf⟩
  · rfl
  · rw [hf.config]
    rcases executeTurn_eq_next h1 with ⟨_, rfl⟩ | ⟨_, u, us, t', _, he, rfl⟩
    · rfl
    · exact he.config

/-- Settles O56: a cell that changed is the one a STO to Memory wrote, whose address is not negative. -/
theorem onlyStoChangesMemory : Obligations.OnlyStoChangesMemory := by
  unfold Obligations.OnlyStoChangesMemory
  intro s t h b hb
  rcases step_mem h with hm | ⟨hx, e, w, a, hu, ha, hr, hm⟩
  · exact absurd (by rw [hm]) hb
  · have hba : b = a.toNat := by
      by_contra hne
      exact hb (by rw [hm, Memory.read_write_other _ _ hne])
    have hcast : (b : Int) = a := by rw [hba, Int.toNat_of_nonneg (inRange_iff.1 hr).1]
    refine ⟨hx, e, w, hu, by rw [hcast, ha], ?_⟩
    rw [hm, hba]
    exact Memory.read_write_same _ _ _

/-! ### The invariant -/

/-- Whatever the view, a register reads as a signed 64-bit integer (R23). -/
theorem inInt64_readView (v : Width) (w : Word) : inInt64 (readView v w) = true := by
  suffices h : -2 ^ 63 ≤ readView v w ∧ readView v w < 2 ^ 63 by simpa [inInt64] using h
  cases v with
  | eight => exact ⟨BitVec.le_toInt w, BitVec.toInt_lt⟩
  | one | two | four =>
    simp only [readView]
    omega

/-- Settles O50: the cell a STO writes is in range, and what it writes is a register read through a view. -/
theorem stepKeepsTheMemoryInvariant : Obligations.StepKeepsTheMemoryInvariant := by
  unfold Obligations.StepKeepsTheMemoryInvariant
  rintro s t ⟨hwf, hcells⟩ h
  unfold MemoryInv
  rw [step_config h]
  rcases step_mem h with hm | ⟨_, _, w, a, _, _, hr, hm⟩
  · rw [hm]
    exact ⟨hwf, hcells⟩
  · rw [hm]
    refine ⟨Memory.wf_write hwf _ _, fun b c hb => ?_⟩
    rw [Memory.read_write] at hb
    split at hb
    · next hba =>
      cases hb
      have hrange := inRange_iff.1 hr
      refine ⟨by omega, fun v hv => ?_⟩
      cases hv
      exact inInt64_readView w _
    · exact hcells b c hb

/-! ### What the load refuses -/

/-- A property of all elements between two indices of a list, said by index. -/
theorem forall_mem_drop_take_iff {α : Type} {p : α → Prop} (l : List α) (a b : Nat) :
    (∀ x ∈ (l.take b).drop a, p x) ↔ ∀ i x, l[i]? = some x → a ≤ i → i < b → p x := by
  simp only [List.mem_iff_getElem?, List.getElem?_drop, List.getElem?_take]
  constructor
  · intro h i x hx ha hb
    refine h x ⟨i - a, ?_⟩
    rw [Nat.add_sub_cancel' ha, if_pos hb, hx]
  · rintro h x ⟨i, hx⟩
    split at hx
    · next hb => exact h (a + i) x hx (Nat.le_add_right a i) hb
    · cases hx

/-- What R63 asks of the elements after the header: strings in the text, 64-bit integers in the data, and either in
between. -/
def ElementsFit (ts ds : Int) (exe : Executable) : Prop :=
  ∀ (i : Nat) (x : Content), exe[i]? = some x → 2 ≤ i →
    ((i : Int) < ts → x.isToken = true ∨ x.isInt64 = true) ∧
    (ts ≤ i ∧ (i : Int) < ds → x.isToken = true) ∧ (ds ≤ i → x.isInt64 = true)

/-- The three segments that `executableWf` cuts hold what they should exactly when every element after the header
does. -/
theorem segments_iff_elementsFit {ts ds : Int} (hts : 2 ≤ ts) (htd : ts ≤ ds) (exe : Executable) :
    (∀ x ∈ (exe.take ts.toNat).drop 2, x.isToken = true ∨ x.isInt64 = true) ∧
      (∀ x ∈ (exe.take ds.toNat).drop ts.toNat, x.isToken = true) ∧ (∀ x ∈ exe.drop ds.toNat, x.isInt64 = true) ↔
    ElementsFit ts ds exe := by
  rw [← List.take_length (l := exe.drop ds.toNat), List.length_drop, ← List.drop_take]
  simp only [forall_mem_drop_take_iff]
  constructor
  · rintro ⟨hgap, htext, hdata⟩ i x hx hi
    refine ⟨fun h => hgap i x hx hi (by omega), fun ⟨h, h'⟩ => htext i x hx (by omega) (by omega),
      fun h => hdata i x hx (by omega) ?_⟩
    exact (List.getElem?_eq_some_iff.1 hx).1
  · intro h
    refine ⟨fun i x hx hi hlt => ?_, fun i x hx hi hlt => ?_, fun i x hx hi _ => ?_⟩ <;>
      obtain ⟨hgap, htext, hdata⟩ := h i x hx (by omega)
    · exact hgap (by omega)
    · exact htext (by omega)
    · exact hdata (by omega)

/-- The check of the load, for an executable that begins with two integers (R63). -/
theorem executableWf_cons_iff {c : Config} {ts ds : Int} {rest : Executable} :
    executableWf c (.number ts :: .number ds :: rest) = true ↔
      2 ≤ ts ∧ ts ≤ ds ∧ ds ≤ (.number ts :: .number ds :: rest : Executable).length ∧
      (.number ts :: .number ds :: rest : Executable).length ≤ c.memSize ∧
      ElementsFit ts ds (.number ts :: .number ds :: rest) := by
  have hgap : rest.take (ts.toNat - 2) = (List.take ts.toNat (.number ts :: .number ds :: rest)).drop 2 :=
    (List.drop_take (i := 2) (l := .number ts :: .number ds :: rest)).symm
  rw [executableWf, hgap]
  simp only [Bool.and_eq_true, Bool.or_eq_true, decide_eq_true_eq, List.all_eq_true]
  constructor
  · rintro ⟨⟨⟨⟨⟨⟨hts, htd⟩, hdl⟩, hgap⟩, htext⟩, hdata⟩, hlen⟩
    exact ⟨hts, htd, hdl, hlen, (segments_iff_elementsFit hts htd _).1 ⟨hgap, htext, hdata⟩⟩
  · rintro ⟨hts, htd, hdl, hlen, hfit⟩
    obtain ⟨hgap, htext, hdata⟩ := (segments_iff_elementsFit hts htd _).2 hfit
    exact ⟨⟨⟨⟨⟨⟨hts, htd⟩, hdl⟩, hgap⟩, htext⟩, hdata⟩, hlen⟩

/-- A well-formed executable begins with two integers (R62). -/
theorem exists_header_of_executableWf {c : Config} {exe : Executable} (hw : executableWf c exe = true) :
    ∃ ts ds rest, exe = .number ts :: .number ds :: rest := by
  unfold executableWf at hw
  split at hw
  · exact ⟨_, _, _, rfl⟩
  · cases hw

/-- A list with an element at index 1 is its first two elements and the rest. -/
theorem eq_cons_cons_of_getElem? {exe : Executable} {x y : Content} (h0 : exe[0]? = some x) (h1 : exe[1]? = some y) :
    exe = x :: y :: exe.drop 2 := by
  match exe with
  | [] | [_] => cases h1
  | a :: b :: rest => cases h0; cases h1; rfl

/-- The check of the load is the form that R63 gives. -/
theorem executableWf_iff {c : Config} {exe : Executable} :
    executableWf c exe = true ↔
      ∃ ts ds : Int, exe[0]? = some (.number ts) ∧ exe[1]? = some (.number ds) ∧ 2 ≤ ts ∧ ts ≤ ds ∧
        ds ≤ exe.length ∧ exe.length ≤ c.memSize ∧ ElementsFit ts ds exe := by
  constructor
  · intro hw
    obtain ⟨ts, ds, rest, rfl⟩ := exists_header_of_executableWf hw
    exact ⟨ts, ds, rfl, rfl, executableWf_cons_iff.1 hw⟩
  · rintro ⟨ts, ds, h0, h1, hform⟩
    rw [eq_cons_cons_of_getElem? h0 h1] at hform ⊢
    exact executableWf_cons_iff.2 hform

/-- An executable that passes the check is loaded (R63). -/
theorem boot_of_executableWf {c : Config} {exe : Executable} (hw : executableWf c exe = true) :
    ∃ s, boot c exe = .next s := by
  obtain ⟨ts, ds, rest, rfl⟩ := exists_header_of_executableWf hw
  exact ⟨_, if_pos hw⟩

/-- Any other is refused (R63). -/
theorem boot_of_not_executableWf {c : Config} {exe : Executable} (hw : ¬executableWf c exe = true) :
    boot c exe = .refused .malformedExecutable := by
  unfold boot
  split
  · exact if_neg hw
  · rfl

theorem boot_eq_refused_iff {c : Config} {exe : Executable} :
    boot c exe = .refused .malformedExecutable ↔ ¬executableWf c exe = true := by
  refine ⟨fun h hw => ?_, boot_of_not_executableWf⟩
  obtain ⟨s, hs⟩ := boot_of_executableWf hw
  rw [hs] at h
  cases h

theorem boot_ne_fault (c : Config) (exe : Executable) (r : Fault) : boot c exe ≠ .fault r := by
  intro h
  by_cases hw : executableWf c exe = true
  · obtain ⟨s, hs⟩ := boot_of_executableWf hw
    rw [hs] at h
    cases h
  · rw [boot_of_not_executableWf hw] at h
    cases h

/-- Settles O2: the load refuses what fails the check, which is the form R63 gives, and copies the others verbatim. -/
theorem bootRefusesExactlyMalformedExecutables : Obligations.BootRefusesExactlyMalformedExecutables := by
  unfold Obligations.BootRefusesExactlyMalformedExecutables
  intro c exe
  refine ⟨boot_eq_refused_iff.trans (not_congr executableWf_iff), boot_ne_fault c exe, fun s h => ?_⟩
  obtain ⟨ts, ds, _, _, _, rfl⟩ := boot_eq_next h
  exact ⟨rfl, read_loaded c ts ds exe⟩

end Sys2Proof.Machine
end

section
/-! SUPPORT. Tokens (R91): how a token string splits at a blank, and that a text of the encoder (R107) splits into its
parts. -/

namespace Sys2Proof

/-! ### Splitting at blanks -/

theorem splitFrom_append_blank {b : Char} (hb : isBlank b = true) (t u acc : Token) :
    splitFrom (t ++ b :: u) acc = splitFrom t acc ++ splitBlanks u := by
  induction t generalizing acc with
  | nil => cases acc <;> simp [splitFrom, hb, splitBlanks]
  | cons c t ih =>
    by_cases hc : isBlank c = true
    · cases acc <;> simp [splitFrom, hc, ih]
    · simp [splitFrom, hc, ih]

/-- A blank separates: the tokens before it, then those after it (R91). -/
theorem splitBlanks_append_blank {b : Char} (hb : isBlank b = true) (t u : Token) :
    splitBlanks (t ++ b :: u) = splitBlanks t ++ splitBlanks u :=
  splitFrom_append_blank hb t u []

/-- A blank in front adds no token. -/
theorem splitBlanks_blank_cons {b : Char} (hb : isBlank b = true) (u : Token) : splitBlanks (b :: u) = splitBlanks u :=
  splitBlanks_append_blank hb [] u

theorem splitBlanks_blanks_append {pre : Token} (hpre : pre.all isBlank = true) (t : Token) :
    splitBlanks (pre ++ t) = splitBlanks t := by
  induction pre with
  | nil => rfl
  | cons b pre ih =>
    obtain ⟨hb, hpre⟩ := Bool.and_eq_true_iff.1 hpre
    rw [List.cons_append, splitBlanks_blank_cons hb, ih hpre]

theorem splitBlanks_append_blanks {post : Token} (hpost : post.all isBlank = true) (t : Token) :
    splitBlanks (t ++ post) = splitBlanks t := by
  cases post with
  | nil => rw [List.append_nil]
  | cons b post =>
    obtain ⟨hb, hpost⟩ := Bool.and_eq_true_iff.1 hpost
    have hnone : splitBlanks (post ++ []) = [] := splitBlanks_blanks_append hpost []
    rw [List.append_nil] at hnone
    rw [splitBlanks_append_blank hb, hnone, List.append_nil]

/-! ### Words -/

/-- What can be one token of a token string: a character at least, and no blank (R91). -/
def IsWord (t : Token) : Prop := t ≠ [] ∧ ∀ c ∈ t, isBlank c = false

theorem splitFrom_of_not_isBlank {t : Token} (ht : ∀ c ∈ t, isBlank c = false) (acc : Token) :
    splitFrom t acc = splitFrom [] (t.reverse ++ acc) := by
  induction t generalizing acc with
  | nil => rfl
  | cons c t ih =>
    obtain ⟨hc, ht⟩ := List.forall_mem_cons.1 ht
    simp [splitFrom, hc, ih ht]

/-- A word is one token. -/
theorem splitBlanks_of_isWord {t : Token} (h : IsWord t) : splitBlanks t = [t] := by
  obtain ⟨c, cs, hr⟩ := List.exists_cons_of_ne_nil (List.reverse_ne_nil_iff.2 h.1)
  rw [splitBlanks, splitFrom_of_not_isBlank h.2, List.append_nil, hr, splitFrom, ← hr, List.reverse_reverse]

theorem joinText_cons (head a : Token) (args : List Token) :
    joinText head (a :: args) = head ++ ' ' :: joinText a args := rfl

theorem joinText_nil (head : Token) : joinText head [] = head := List.append_nil head

/-- The first token of a text the encoder joins is its head, whatever follows. -/
theorem head?_splitBlanks_joinText {head : Token} (hh : IsWord head) (args : List Token) :
    (splitBlanks (joinText head args)).head? = some head := by
  cases args with
  | nil => rw [joinText_nil, splitBlanks_of_isWord hh, List.head?_cons]
  | cons a args =>
    rw [joinText_cons, splitBlanks_append_blank rfl, splitBlanks_of_isWord hh, List.singleton_append, List.head?_cons]

/-- A text the encoder joins from words splits into these words (R91, R107). -/
theorem splitBlanks_joinText {head : Token} {args : List Token} (hh : IsWord head) (ha : ∀ a ∈ args, IsWord a) :
    splitBlanks (joinText head args) = head :: args := by
  induction args generalizing head with
  | nil => rw [joinText_nil, splitBlanks_of_isWord hh]
  | cons a args ih =>
    obtain ⟨h, hs⟩ := List.forall_mem_cons.1 ha
    rw [joinText_cons, splitBlanks_append_blank rfl, splitBlanks_of_isWord hh, ih h hs, List.singleton_append]

theorem Mnemonic.isWord_name (m : Mnemonic) : IsWord m.name := by
  cases m <;> simp [IsWord, Mnemonic.name, isBlank]

theorem Opcode.isWord_name (o : Opcode) : IsWord o.name := by
  cases o <;> simp [IsWord, Opcode.name, isBlank]

theorem Cond.isWord_name (c : Cond) : IsWord c.name := by
  cases c <;> simp [IsWord, Cond.name, isBlank]

end Sys2Proof
end

section
/-! SUPPORT. The three readings of an operand token (R94) and the texts that have them (R96, R22): register tokens,
decimal integers, operands. -/

namespace Sys2Proof

/-! ### Register tokens (R22) -/

theorem suffixOfChar_eq_some {c : Char} {s : Suffix} : suffixOfChar c = some s ↔ s.text = [c] := by
  constructor
  · intro h
    unfold suffixOfChar at h
    split at h
    all_goals cases h
    all_goals rfl
  · intro h
    cases s with
    | none => cases h
    | b | w | l | q => cases h; rfl

theorem mem_suffixLetters_of_text {s : Suffix} {c : Char} (h : s.text = [c]) : c ∈ suffixLetters := by
  cases s with
  | none => cases h
  | b | w | l | q => cases h; decide

theorem Suffix.text_eq_nil_or_singleton (s : Suffix) : s = .none ∨ ∃ c, s.text = [c] := by
  cases s with
  | none => exact .inl rfl
  | b | w | l | q => exact .inr ⟨_, rfl⟩

/-- No name of `GPR_NAMES` is another one with a suffix (R7). -/
theorem not_mem_append_suffix {names : List Gpr} (hw : gprNamesWf names = true) {g : Gpr} (hg : g ∈ names)
    {s : Suffix} {c : Char} (hs : s.text = [c]) : g ++ [c] ∉ names := by
  simp only [gprNamesWf, Bool.and_eq_true, List.all_eq_true] at hw
  obtain ⟨-, hall⟩ := hw
  simpa using hall g hg c (mem_suffixLetters_of_text hs)

/-- A token whose register token is `r` is the text of `r`, and `r` is of a register of `GPR_NAMES`. -/
theorem eq_text_of_regTokOf {names : List Gpr} {t : Token} {r : RegTok} (h : regTokOf names t = some r) :
    r.reg ∈ names ∧ t = r.text := by
  refine ⟨reg_mem_of_regTokOf h, ?_⟩
  unfold regTokOf at h
  split at h
  · next g hg =>
    cases h
    obtain ⟨rfl, -⟩ := gprOfName_eq_some.1 hg
    exact (List.append_nil g).symm
  · split at h
    · next s g hs hg =>
      cases h
      obtain ⟨rfl, -⟩ := gprOfName_eq_some.1 hg
      obtain ⟨c, hc, hcs⟩ := Option.bind_eq_some_iff.1 hs
      rw [RegTok.text, suffixOfChar_eq_some.1 hcs]
      exact (List.dropLast_append_getLast? c hc).symm
    · cases h

/-- The text of a register token names that register token (R22). -/
theorem regTokOf_text {names : List Gpr} (hw : gprNamesWf names = true) {r : RegTok} (hr : r.reg ∈ names) :
    regTokOf names r.text = some r := by
  obtain ⟨g, s⟩ := r
  have hg : gprOfName names g = some g := gprOfName_eq_some.2 ⟨rfl, hr⟩
  rcases s.text_eq_nil_or_singleton with rfl | ⟨c, hs⟩
  · simp [RegTok.text, Suffix.text, regTokOf, hg]
  · have hn : gprOfName names (g ++ [c]) = none := gprOfName_eq_none.2 (not_mem_append_suffix hw hr hs)
    simp [RegTok.text, hs, regTokOf, hn, hg, suffixOfChar_eq_some.2 hs]

/-- R22: a token names a register token exactly when it is its text. -/
theorem regTokOf_eq_some_iff {names : List Gpr} (hw : gprNamesWf names = true) {t : Token} {r : RegTok} :
    regTokOf names t = some r ↔ r.reg ∈ names ∧ t = r.text :=
  ⟨eq_text_of_regTokOf, fun ⟨hr, ht⟩ => ht ▸ regTokOf_text hw hr⟩

/-! ### Decimal integers (R96) -/

theorem isDecimal_digitChar {d : Nat} (hd : d < 10) : isDecimal d.digitChar = true := by
  interval_cases d <;> decide

/-- The decimal text of any number, 0 too, is that of a non-empty list of digits, the lowest first. -/
theorem exists_digits_of_decimal (n : Nat) :
    ∃ ds : List Nat, ds ≠ [] ∧ (∀ d ∈ ds, d < 10) ∧ Nat.ofDigits 10 ds = n ∧
      decimal n = (ds.map Nat.digitChar).reverse := by
  by_cases hn : n = 0
  · exact ⟨[0], by simp, by simp, by simp [hn], by simp [decimal, hn]⟩
  · exact ⟨Nat.digits 10 n, Nat.digits_ne_nil_iff_ne_zero.2 hn, fun d hd => Nat.digits_lt_base (by decide) hd,
      Nat.ofDigits_digits 10 n, by rw [decimal, if_neg hn]⟩

theorem isDigits_decimal (n : Nat) : isDigits (decimal n) = true := by
  obtain ⟨ds, hne, hlt, -, hdec⟩ := exists_digits_of_decimal n
  have hall : ∀ d ∈ ds, isDecimal d.digitChar = true := fun d hd => isDecimal_digitChar (hlt d hd)
  simpa [isDigits, hdec, hne] using hall

theorem natOfDigits_map_digitChar {ds : List Nat} (hlt : ∀ d ∈ ds, d < 10) :
    natOfDigits (ds.map Nat.digitChar).reverse = Nat.ofDigits 10 ds := by
  rw [natOfDigits, List.foldl_reverse]
  induction ds with
  | nil => rfl
  | cons d ds ih =>
    obtain ⟨hd, hlt⟩ := List.forall_mem_cons.1 hlt
    have hc : d.digitChar.toNat - '0'.toNat = d := Nat.toNat_digitChar_sub_48_of_lt_ten hd
    rw [List.map_cons, List.foldr_cons, ih hlt, hc, Nat.ofDigits_cons, Nat.add_comm]

theorem natOfDigits_decimal (n : Nat) : natOfDigits (decimal n) = n := by
  obtain ⟨ds, -, hlt, hn, hdec⟩ := exists_digits_of_decimal n
  rw [hdec, natOfDigits_map_digitChar hlt, hn]

theorem intOf_of_isDigits {t : Token} (h : isDigits t = true) : intOf t = some (natOfDigits t : Int) := by
  unfold intOf
  split
  · next ds => exact absurd h (by simp [isDigits, isDecimal])
  · exact if_pos h

/-- An immediate's text spells that integer (R96). -/
theorem intOf_immText (v : Int) : intOf (immText v) = some v := by
  unfold immText
  split
  · next hv =>
    rw [intOf, if_pos (isDigits_decimal _), natOfDigits_decimal]
    exact congrArg some (by omega)
  · next hv =>
    rw [intOf_of_isDigits (isDigits_decimal _), natOfDigits_decimal]
    exact congrArg some (by omega)

/-! ### The characters of register and immediate texts -/

/-- A character that has no part in splitting a token string or in the form of a Memory operand: no blank, comma or
bracket. -/
def isPlain (c : Char) : Bool := isLetter c || isDecimal c || c == '-'

theorem isPlain_spec {c : Char} (h : isPlain c = true) : isBlank c = false ∧ c ≠ ',' ∧ c ≠ '[' := by
  refine ⟨?_, ?_, ?_⟩
  · by_contra hb
    simp only [isBlank, Bool.not_eq_false, Bool.or_eq_true, beq_iff_eq] at hb
    rcases hb with rfl | rfl
    all_goals exact absurd h (by decide)
  all_goals rintro rfl; exact absurd h (by decide)

theorem isWord_of_isPlain {t : Token} (hne : t ≠ []) (h : ∀ c ∈ t, isPlain c = true) : IsWord t :=
  ⟨hne, fun c hc => (isPlain_spec (h c hc)).1⟩

theorem hasComma_of_isPlain {t : Token} (h : ∀ c ∈ t, isPlain c = true) : hasComma t = false := by
  simpa [hasComma] using fun hc => (isPlain_spec (h ',' hc)).2.1 rfl

theorem isBracketed_of_isPlain {t : Token} (h : ∀ c ∈ t, isPlain c = true) : isBracketed t = false := by
  unfold isBracketed
  split
  · exact absurd rfl (isPlain_spec (h '[' List.mem_cons_self)).2.2
  · rfl

theorem Suffix.isPlain_text (s : Suffix) : ∀ c ∈ s.text, isPlain c = true := by
  cases s <;> simp [Suffix.text] <;> decide

/-- The text of a register token of a core with names in letters and digits is in letters and digits, a letter first. -/
theorem RegTok.text_lexical {names : List Gpr} (hl : gprNamesLexical names = true) {r : RegTok} (hr : r.reg ∈ names) :
    r.text.head?.any isLetter = true ∧ ∀ c ∈ r.text, isPlain c = true := by
  obtain ⟨hhead, hall⟩ := Bool.and_eq_true_iff.1 (List.all_eq_true.1 hl r.reg hr)
  constructor
  · cases hreg : r.reg with
    | nil => rw [hreg] at hhead; cases hhead
    | cons c cs => rw [hreg] at hhead; rw [RegTok.text, hreg]; exact hhead
  · intro c hc
    rcases List.mem_append.1 hc with hc | hc
    · have h := List.all_eq_true.1 hall c hc
      rw [isPlain, h, Bool.true_or]
    · exact r.suffix.isPlain_text c hc

theorem mem_immText {v : Int} {c : Char} (hc : c ∈ immText v) : c = '-' ∨ isDecimal c = true := by
  have hdec : ∀ c ∈ decimal v.natAbs, isDecimal c = true := by
    have h := isDigits_decimal v.natAbs
    exact List.all_eq_true.1 (Bool.and_eq_true_iff.1 h).2
  unfold immText at hc
  split at hc
  · exact (List.mem_cons.1 hc).imp_right (hdec c)
  · exact .inr (hdec c hc)

theorem isPlain_of_mem_immText {v : Int} {c : Char} (hc : c ∈ immText v) : isPlain c = true := by
  rcases mem_immText hc with rfl | h
  · rfl
  · simp [isPlain, h]

theorem immText_ne_nil (v : Int) : immText v ≠ [] := by
  intro h
  have hv := intOf_immText v
  rw [h] at hv
  cases hv

theorem not_isLetter_of_isDecimal {c : Char} (h : isDecimal c = true) : isLetter c = false := by
  obtain ⟨-, hle⟩ := Bool.and_eq_true_iff.1 h
  have h9 : c ≤ '9' := of_decide_eq_true hle
  have ha : ¬'a' ≤ c := fun hc => absurd (hc.trans h9) (by decide)
  have hA : ¬'A' ≤ c := fun hc => absurd (hc.trans h9) (by decide)
  simp [isLetter, ha, hA]

theorem not_isLetter_of_mem_immText {v : Int} {c : Char} (hc : c ∈ immText v) : isLetter c = false := by
  rcases mem_immText hc with rfl | hd
  · decide
  · exact not_isLetter_of_isDecimal hd

/-- No register name begins as an immediate does, so no immediate's text is a register token. -/
theorem regTokOf_immText {names : List Gpr} (hl : gprNamesLexical names = true) (v : Int) :
    regTokOf names (immText v) = none := by
  cases h : regTokOf names (immText v) with
  | none => rfl
  | some r =>
    obtain ⟨hr, ht⟩ := eq_text_of_regTokOf h
    obtain ⟨hhead, -⟩ := RegTok.text_lexical hl hr
    obtain ⟨c, hc, hletter⟩ := (Option.any_eq_true _ _).1 (ht ▸ hhead)
    rw [not_isLetter_of_mem_immText (List.mem_of_head? hc)] at hletter
    cases hletter

/-! ### Operand forms (R94) -/

theorem operandOf_of_comma {names : List Gpr} {t : Token} (h : hasComma t = true) : operandOf names t = none := by
  rw [operandOf, if_pos h]

theorem operandOf_of_isBracketed {names : List Gpr} {t : Token} (hc : hasComma t = false) (h : isBracketed t = true) :
    operandOf names t = some (.mem t) := by
  simp [operandOf, hc, h]

theorem operandOf_of_regTokOf {names : List Gpr} {t : Token} (hc : hasComma t = false) (hb : isBracketed t = false)
    {r : RegTok} (h : regTokOf names t = some r) : operandOf names t = some (.reg r) := by
  simp [operandOf, hc, hb, h]

/-- What is neither Memory nor Register is an Immediate if it spells an integer within the range, and else nothing. -/
theorem operandOf_of_regTokOf_eq_none {names : List Gpr} {t : Token} (hc : hasComma t = false)
    (hb : isBracketed t = false) (h : regTokOf names t = none) :
    operandOf names t = (intOf t).bind fun v => if inInt64 v then some (.imm v) else none := by
  cases hi : intOf t <;> simp [operandOf, hc, hb, h, hi]

/-! ### The texts of operands (R92) -/

@[simp] theorem Dest.text_toOperand (d : Dest) : d.toOperand.text = d.text := by cases d <;> rfl

@[simp] theorem Dest.toDest_toOperand (d : Dest) : d.toOperand.toDest = some d := by cases d <;> rfl

section
variable {names : List Gpr} (hw : gprNamesWf names = true) (hl : gprNamesLexical names = true)

include hl in
/-- The text of a well-formed operand is one token. -/
theorem Operand.isWord_text {o : Operand} (ho : o.wf names = true) : IsWord o.text := by
  cases o with
  | reg r =>
    obtain ⟨hhead, hplain⟩ := RegTok.text_lexical hl (List.contains_iff_mem.1 ho)
    have hne : r.text ≠ [] := fun h => by rw [h] at hhead; cases hhead
    exact isWord_of_isPlain hne hplain
  | mem e =>
    simp only [Operand.wf, memTextWf, Bool.and_eq_true, List.all_eq_true, Bool.not_eq_true'] at ho
    obtain ⟨⟨hbr, hblank⟩, -⟩ := ho
    have hne : e ≠ [] := fun h => by rw [h] at hbr; cases hbr
    exact ⟨hne, hblank⟩
  | imm v =>
    exact isWord_of_isPlain (immText_ne_nil v) fun c hc => isPlain_of_mem_immText hc

include hw hl in
/-- The text of a well-formed operand has the form of that operand (R94). -/
theorem operandOf_text {o : Operand} (ho : o.wf names = true) : operandOf names o.text = some o := by
  cases o with
  | reg r =>
    have hr : r.reg ∈ names := List.contains_iff_mem.1 ho
    obtain ⟨-, hplain⟩ := RegTok.text_lexical hl hr
    exact operandOf_of_regTokOf (hasComma_of_isPlain hplain) (isBracketed_of_isPlain hplain) (regTokOf_text hw hr)
  | mem e =>
    simp only [Operand.wf, memTextWf, Bool.and_eq_true, Bool.not_eq_true'] at ho
    obtain ⟨⟨hbr, -⟩, hcomma⟩ := ho
    exact operandOf_of_isBracketed hcomma hbr
  | imm v =>
    have hplain : ∀ c ∈ immText v, isPlain c = true := fun c hc => isPlain_of_mem_immText hc
    have hv : inInt64 v = true := ho
    rw [Operand.text, operandOf_of_regTokOf_eq_none (hasComma_of_isPlain hplain) (isBracketed_of_isPlain hplain)
      (regTokOf_immText hl v), intOf_immText, Option.bind_some, if_pos hv]

end

/-! ### Slot texts (R100, R108) -/

/-- The texts behind the opcode in a micro-op's slot text. -/
def MicroOp.argTexts : MicroOp → List Token
  | .load a _ => [a.text]
  | .sto a _ => [a.text]
  | .add a _ => [a.text]
  | .sub a _ => [a.text]
  | .cmp a _ => [a.text]
  | .jmp c _ => [c.name]
  | .syscall _ => []
  | .noop _ => []

theorem MicroOp.text_eq_joinText (u : MicroOp) : u.text = joinText u.opcode.name u.argTexts := by cases u <;> rfl

@[simp] theorem opcodeOf_name (o : Opcode) : opcodeOf o.name = some o := by cases o <;> decide

@[simp] theorem condOf_name (c : Cond) : condOf c.name = some c := by cases c <;> decide

theorem isWord_of_mem_argTexts {names : List Gpr} (hl : gprNamesLexical names = true) {u : MicroOp}
    (hu : u.toInstr.wf names = true) : ∀ a ∈ u.argTexts, IsWord a := by
  cases u with
  | load a | add a | sub a | cmp a => exact List.forall_mem_singleton.2 (Operand.isWord_text hl hu)
  | sto a =>
    have ha : a.toOperand.wf names = true := (Dest.wf_toOperand names a).trans hu
    exact List.forall_mem_singleton.2 (Dest.text_toOperand a ▸ Operand.isWord_text hl ha)
  | jmp c => exact List.forall_mem_singleton.2 c.isWord_name
  | syscall | noop => exact List.forall_mem_nil _

theorem assembleMicro_argTexts {names : List Gpr} (hw : gprNamesWf names = true)
    (hl : gprNamesLexical names = true) {u : MicroOp} (hu : u.toInstr.wf names = true) :
    assembleMicro names u.opcode u.argTexts u.width = some u := by
  cases u with
  | load a | add a | sub a | cmp a =>
    have ha : operandOf names a.text = some a := operandOf_text hw hl hu
    simp [MicroOp.opcode, MicroOp.width, MicroOp.argTexts, assembleMicro, ha]
  | sto a =>
    have ha : operandOf names a.text = some a.toOperand :=
      Dest.text_toOperand a ▸ operandOf_text hw hl ((Dest.wf_toOperand names a).trans hu)
    simp [MicroOp.opcode, MicroOp.width, MicroOp.argTexts, assembleMicro, ha]
  | jmp c => simp [MicroOp.opcode, MicroOp.width, MicroOp.argTexts, assembleMicro]
  | syscall | noop => rfl

end Sys2Proof
end

section
/-! Decode and encode (O4 to O11): what a token string decodes to, said once by its tokens, and what follows from it;
the operand width and the groups. -/

namespace Sys2Proof.Machine

/-! ### Instructions by their spelling (R92, R98) -/

/-- The instructions a token string can spell are those that are no micro-op (R100). -/
theorem toMicroOp_eq_none_iff {i : Instr} : i.toMicroOp = none ↔ ∃ m ops, spelledAs i = some (m, ops) := by
  cases i with
  | microLoad | microSto | microAdd | microSub | microCmp | microJmp | microSyscall | microNoop =>
    simp [Instr.toMicroOp, spelledAs]
  | mov | jmp | je | jne | jg | jl | jge | jle | inc | dec | cmp | syscall | noop =>
    exact ⟨fun _ => ⟨_, _, rfl⟩, fun _ => rfl⟩

theorem assemble_of_spelledAs {i : Instr} {m : Mnemonic} {ops : List Operand} (h : spelledAs i = some (m, ops)) :
    assemble m ops = some i := by
  cases i with
  | microLoad | microSto | microAdd | microSub | microCmp | microJmp | microSyscall | microNoop => cases h
  | jmp | je | jne | jg | jl | jge | jle | cmp | syscall | noop => cases h; rfl
  | mov | inc | dec => cases h; simp [assemble]

theorem encode_of_spelledAs {i : Instr} {m : Mnemonic} {ops : List Operand} (h : spelledAs i = some (m, ops)) :
    encode i = joinText m.name (ops.map Operand.text) := by
  cases i with
  | microLoad | microSto | microAdd | microSub | microCmp | microJmp | microSyscall | microNoop => cases h
  | jmp | je | jne | jg | jl | jge | jle | cmp | syscall | noop => cases h; rfl
  | mov | inc | dec => cases h; simp [encode]

theorem operands_wf_of_spelledAs {names : List Gpr} {i : Instr} {m : Mnemonic} {ops : List Operand}
    (h : spelledAs i = some (m, ops)) (hi : i.wf names = true) : ∀ o ∈ ops, o.wf names = true := by
  cases i with
  | microLoad | microSto | microAdd | microSub | microCmp | microJmp | microSyscall | microNoop => cases h
  | syscall | noop => cases h; exact List.forall_mem_nil _
  | mov | jmp | je | jne | jg | jl | jge | jle | inc | dec | cmp =>
    cases h
    simpa [Instr.wf] using hi

theorem toOperand_ne_imm (d : Dest) (v : Int) : d.toOperand ≠ .imm v := by cases d <;> nofun

theorem exists_toOperand_of_ne_imm {o : Operand} (h : ∀ v, o ≠ .imm v) : ∃ d : Dest, d.toOperand = o := by
  cases o with
  | reg t => exact ⟨.reg t, rfl⟩
  | mem e => exact ⟨.mem e, rfl⟩
  | imm v => exact absurd rfl (h v)

/-- The count and the shapes of the operands that a mnemonic takes (R98). -/
theorem exists_spelledAs_iff {m : Mnemonic} {ops : List Operand} :
    (∃ i, spelledAs i = some (m, ops)) ↔
      ops.length = operandCount m ∧ (m ∈ writesFirst → ∀ v, ops.head? ≠ some (.imm v)) := by
  constructor
  · rintro ⟨i, h⟩
    cases i with
    | microLoad | microSto | microAdd | microSub | microCmp | microJmp | microSyscall | microNoop => cases h
    | jmp | je | jne | jg | jl | jge | jle | cmp | syscall | noop =>
      cases h
      exact ⟨rfl, fun hw => absurd hw (by decide)⟩
    | mov a | inc a | dec a =>
      cases h
      exact ⟨rfl, fun _ v hv => toOperand_ne_imm a v (Option.some.inj hv)⟩
  · rintro ⟨hl, hd⟩
    cases m with
    | syscall | noop =>
      obtain rfl := List.length_eq_zero_iff.1 hl
      exact ⟨_, spelledAs_of_assemble rfl⟩
    | jmp | je | jne | jg | jl | jge | jle =>
      obtain ⟨a, rfl⟩ := List.length_eq_one_iff.1 hl
      exact ⟨_, spelledAs_of_assemble rfl⟩
    | cmp =>
      obtain ⟨a, b, rfl⟩ := List.length_eq_two.1 hl
      exact ⟨.cmp a b, rfl⟩
    | inc | dec =>
      obtain ⟨a, rfl⟩ := List.length_eq_one_iff.1 hl
      obtain ⟨d, rfl⟩ := exists_toOperand_of_ne_imm fun v hv => hd (by decide) v (congrArg some hv)
      exact ⟨_, spelledAs_of_assemble (congrArg (Option.map _) (Dest.toDest_toOperand d))⟩
    | mov =>
      obtain ⟨a, b, rfl⟩ := List.length_eq_two.1 hl
      obtain ⟨d, rfl⟩ := exists_toOperand_of_ne_imm fun v hv => hd (by decide) v (congrArg some hv)
      exact ⟨.mov d b, rfl⟩

/-! ### What Decode answers, by the tokens -/

/-- R93: without a mnemonic as its first token, a token string is an invalid opcode. -/
theorem decode_of_no_mnemonic {names : List Gpr} {t : Token}
    (h : ∀ m : Mnemonic, (splitBlanks t).head? ≠ some m.name) : decode names t = .error (.invalidOpcode t) := by
  unfold decode
  split
  · rfl
  · next a args hs =>
    have hm : mnemonicOf a = none := Option.eq_none_iff_forall_ne_some.2 fun m hm => h m (by
      rw [hs, mnemonicOf_eq_some.1 hm, List.head?_cons])
    rw [hm]

/-- R94, R98: with a mnemonic as its first token, it is that mnemonic's instruction with the classified operands, or
malformed where there is none. -/
theorem decode_of_mnemonic {names : List Gpr} {t : Token} {m : Mnemonic} {args : List Token}
    (hs : splitBlanks t = m.name :: args) :
    decode names t = ((operandsOf names args).bind (assemble m)).elim (.error (.malformedInstruction t)) .ok := by
  rw [decode, hs]
  simp only [mnemonicOf_name]
  cases operandsOf names args with
  | none => rfl
  | some ops => cases ha : assemble m ops <;> simp [ha]

/-- What a token string decodes to depends on its tokens only; the errors carry the whole string. -/
theorem decode_eq_ok_iff {names : List Gpr} {t : Token} {i : Instr} :
    decode names t = .ok i ↔
      ∃ m args ops, splitBlanks t = Mnemonic.name m :: args ∧ operandsOf names args = some ops ∧
        spelledAs i = some (m, ops) := by
  constructor
  · intro h
    obtain ⟨m, args, ops, hs, ho, ha⟩ := decode_eq_ok h
    exact ⟨m, args, ops, hs, ho, spelledAs_of_assemble ha⟩
  · rintro ⟨m, args, ops, hs, ho, hi⟩
    rw [decode_of_mnemonic hs, ho, Option.bind_some, assemble_of_spelledAs hi, Option.elim_some]

theorem decode_congr {names : List Gpr} {t t' : Token} {i : Instr} (hs : splitBlanks t' = splitBlanks t)
    (h : decode names t = .ok i) : decode names t' = .ok i := by
  rw [decode_eq_ok_iff] at h ⊢
  rw [hs]
  exact h

/-- What Decode raises, the machine's Decode stage stops with. -/
theorem decodeStage_of_error {s : State} {f : Fetched} {e : DecodeError} (hf : s.cir = some f)
    (h : decode s.config.gprNames f.token = .error e) : decodeStage s = .fault (faultOfDecode e) := by
  simp only [decodeStage, hf, h]

/-! ### Decode of encode -/

/-- Settles O5: the text splits into the mnemonic and the operands' texts, each of which has its operand's form. -/
theorem decodeOfEncodeIsTheInstruction : Obligations.DecodeOfEncodeIsTheInstruction := by
  unfold Obligations.DecodeOfEncodeIsTheInstruction
  intro names i hw hl hi hm
  obtain ⟨m, ops, hsp⟩ := toMicroOp_eq_none_iff.1 hm
  have ho : ∀ o ∈ ops, o.wf names = true := operands_wf_of_spelledAs hsp hi
  refine decode_eq_ok_iff.2 ⟨m, ops.map Operand.text, ops, ?_, ?_, hsp⟩
  · rw [encode_of_spelledAs hsp]
    exact splitBlanks_joinText m.isWord_name (List.forall_mem_map.2 fun o h => Operand.isWord_text hl (ho o h))
  · rw [operandsOf_eq_some, List.map_map]
    exact List.map_congr_left fun o h => operandOf_text hw hl (ho o h)

/-! ### Slot texts -/

/-- Settles O6: the slot text splits into the opcode and its argument, from which the micro-op is put together again. -/
theorem slotTextReadsBackAsTheMicroOp : Obligations.SlotTextReadsBackAsTheMicroOp := by
  unfold Obligations.SlotTextReadsBackAsTheMicroOp
  intro names u hw hl hu
  have hs : splitBlanks u.text = u.opcode.name :: u.argTexts := by
    rw [MicroOp.text_eq_joinText]
    exact splitBlanks_joinText u.opcode.isWord_name (isWord_of_mem_argTexts hl hu)
  rw [decodeSlot, hs]
  simp only [opcodeOf_name, Option.bind_some]
  exact assembleMicro_argTexts hw hl hu

/-! ### What decodes is well formed, and the operand forms -/

/-- Settles O7: an instruction that decodes has a spelling, from operands that each have a form. -/
theorem decodedInstructionsAreWellFormed : Obligations.DecodedInstructionsAreWellFormed := by
  unfold Obligations.DecodedInstructionsAreWellFormed
  refine ⟨fun names t i h => ?_, fun names t r hw => regTokOf_eq_some_iff hw,
    fun names t => ⟨fun hc => ?_, fun hc => ?_⟩⟩
  · obtain ⟨m, args, ops, -, -, hsp⟩ := decode_eq_ok_iff.1 h
    obtain ⟨g, hg⟩ := groupOf_of_spelledAs hsp
    exact ⟨wf_of_decode h, toMicroOp_eq_none_iff.2 ⟨m, ops, hsp⟩, by rw [hg]; rfl⟩
  · exact operandOf_of_comma (List.contains_iff_mem.2 hc)
  · have hcomma : hasComma t = false := by simpa [hasComma] using hc
    refine ⟨operandOf_of_isBracketed hcomma, fun hb => ⟨fun r => operandOf_of_regTokOf hcomma hb, fun hr => ?_⟩⟩
    have hint := operandOf_of_regTokOf_eq_none hcomma hb hr
    exact ⟨fun v hv => by simp [hint, hv, inInt64], fun hv => by rw [hint, hv, Option.bind_none]⟩

/-- Settles O8: blanks around the tokens, and a second blank behind one, give the same tokens. -/
theorem extraBlanksDoNotChangeTheInstruction : Obligations.ExtraBlanksDoNotChangeTheInstruction := by
  unfold Obligations.ExtraBlanksDoNotChangeTheInstruction
  constructor
  · intro names pre t post i hpre hpost h
    have hs : splitBlanks (pre ++ t ++ post) = splitBlanks t := by
      rw [splitBlanks_append_blanks hpost, splitBlanks_blanks_append hpre]
    exact decode_congr hs h
  · intro names t u b b' i hb hb' h
    have hs : splitBlanks (t ++ b :: b' :: u) = splitBlanks (t ++ b :: u) := by
      rw [splitBlanks_append_blank hb, splitBlanks_blank_cons hb', splitBlanks_append_blank hb]
    exact decode_congr hs h

/-! ### The errors of Decode (R93, R98) -/

theorem decode_ne_invalidOpcode {names : List Gpr} {t : Token} {m : Mnemonic}
    (h : (splitBlanks t).head? = some m.name) : decode names t ≠ .error (.invalidOpcode t) := by
  obtain ⟨args, hs⟩ := List.head?_eq_some_iff.1 h
  rw [decode_of_mnemonic hs]
  cases (operandsOf names args).bind (assemble m) <;> nofun

/-- An operand of no form, a wrong count or an Immediate destination leaves no instruction to assemble (R94, R98). -/
theorem decode_malformed {names : List Gpr} {t : Token} {m : Mnemonic} {args : List Token}
    (hs : splitBlanks t = m.name :: args)
    (h : (∃ a ∈ args, operandOf names a = none) ∨ args.length ≠ operandCount m ∨
      (m ∈ writesFirst ∧ ∃ a v, args.head? = some a ∧ operandOf names a = some (.imm v))) :
    decode names t = .error (.malformedInstruction t) := by
  suffices hn : (operandsOf names args).bind (assemble m) = none by rw [decode_of_mnemonic hs, hn, Option.elim_none]
  refine Option.bind_eq_none_iff.2 fun ops ho => Option.eq_none_iff_forall_ne_some.2 fun i ha => ?_
  obtain ⟨hcount, hdest⟩ := exists_spelledAs_iff.1 ⟨i, spelledAs_of_assemble ha⟩
  have hforms : args.map (operandOf names) = ops.map some := operandsOf_eq_some.1 ho
  rcases h with hform | hlen | ⟨hm, a, v, hhead, himm⟩
  · rw [operandsOf_eq_none.2 hform] at ho
    cases ho
  · have hlength : args.length = ops.length := by simpa using congrArg List.length hforms
    exact hlen (hlength.trans hcount)
  · have hfirst : ops.head?.map some = some (some (.imm v)) := by
      rw [← List.head?_map, ← hforms, List.head?_map, hhead, Option.map_some, himm]
    exact hdest hm v (Option.map_injective (Option.some_injective _) hfirst)

/-- No opcode of a micro-op is a mnemonic (R100). -/
theorem opcodeName_ne_mnemonicName (o : Opcode) (m : Mnemonic) : o.name ≠ m.name := by
  cases o <;> cases m <;> decide

/-- Settles O9: no first mnemonic is an invalid opcode; with one, it is the operands that say whether there is an
instruction. -/
theorem onlyTheThirteenMnemonicsDecode : Obligations.OnlyTheThirteenMnemonicsDecode := by
  unfold Obligations.OnlyTheThirteenMnemonicsDecode
  refine ⟨fun s f hf h => ?_, fun names t m => decode_ne_invalidOpcode, fun s f m args hf hs h => ?_,
    fun names t m args ops hs hforms hlen hdest => ?_, fun names t i h => ?_, fun names u => ?_⟩
  · have hd := decode_of_no_mnemonic (names := s.config.gprNames) h
    exact ⟨hd, decodeStage_of_error hf hd⟩
  · have hd := decode_malformed hs h
    exact ⟨hd, decodeStage_of_error hf hd⟩
  · have hlength : args.length = ops.length := by simpa using congrArg List.length hforms
    obtain ⟨i, hi⟩ := exists_spelledAs_iff.2 ⟨hlength.symm.trans hlen, hdest⟩
    exact ⟨i, decode_eq_ok_iff.2 ⟨m, args, ops, hs, operandsOf_eq_some.2 hforms, hi⟩, hi⟩
  · obtain ⟨m, args, ops, hs, ho, hi⟩ := decode_eq_ok_iff.1 h
    exact ⟨m, args, ops, hs, operandsOf_eq_some.1 ho, hi⟩
  · refine decode_of_no_mnemonic fun m h => opcodeName_ne_mnemonicName u.opcode m ?_
    rw [MicroOp.text_eq_joinText, head?_splitBlanks_joinText u.opcode.isWord_name] at h
    exact Option.some.inj h

/-! ### Operand width and groups (R99, R101) -/

/-- One operand caps the width at that of its suffix (R99). -/
theorem bytes_narrowByOperand (w : Width) (o : Operand) :
    (narrowByOperand w o).bytes = min w.bytes (suffixBytes o) := by
  cases o with
  | mem e | imm v => cases w <;> rfl
  | reg t =>
    obtain ⟨g, x⟩ := t
    cases x <;> cases w <;> rfl

/-- From a width on, the operands narrow it to the least of it and their suffixes' widths. -/
theorem foldl_narrowByOperand_spec (ops : List Operand) (w : Width) :
    (ops.foldl narrowByOperand w).bytes ≤ w.bytes ∧
    (∀ o ∈ ops, (ops.foldl narrowByOperand w).bytes ≤ suffixBytes o) ∧
    ((ops.foldl narrowByOperand w).bytes = w.bytes ∨
      ∃ o ∈ ops, (ops.foldl narrowByOperand w).bytes = suffixBytes o) := by
  induction ops generalizing w with
  | nil => simp
  | cons o ops ih =>
    obtain ⟨hw, hall, hex⟩ := ih (narrowByOperand w o)
    rw [bytes_narrowByOperand] at hw hex
    rw [List.foldl_cons]
    refine ⟨by omega, List.forall_mem_cons.2 ⟨by omega, hall⟩, ?_⟩
    rcases hex with heq | ⟨p, hp, heq⟩
    · rcases min_choice w.bytes (suffixBytes o) with hmin | hmin
      · exact .inl (heq.trans hmin)
      · exact .inr ⟨o, List.mem_cons_self, heq.trans hmin⟩
    · exact .inr ⟨p, List.mem_cons_of_mem _ hp, heq⟩

/-- Settles O10: the fold of the narrowing from 8. -/
theorem operandWidthIsTheNarrowestSuffix : Obligations.OperandWidthIsTheNarrowestSuffix := by
  unfold Obligations.OperandWidthIsTheNarrowestSuffix
  intro ops
  exact (foldl_narrowByOperand_spec ops .eight).2

/-- Settles O4: the decoder run on the written-out texts. -/
theorem sampleTokenStringsDecode : Obligations.SampleTokenStringsDecode := by
  unfold Obligations.SampleTokenStringsDecode
  refine ⟨?_, ?_, ?_, ?_, ?_, ?_, ?_, ?_, ?_, ?_⟩
  all_goals decide

/-- Settles O11: each row of the expansion table is the group of its instruction by definition. -/
theorem groupsAreThoseOfTheExpansionTable : Obligations.GroupsAreThoseOfTheExpansionTable := by
  unfold Obligations.GroupsAreThoseOfTheExpansionTable
  refine ⟨?_, ?_, ?_, ?_, ?_, ?_, ?_, ?_, ?_, ?_, ?_, ?_, ?_⟩
  all_goals intros
  all_goals rfl

end Sys2Proof.Machine
end

section
/-! The two storage primitives (O38 to O40): the circular buffer under adds and removes; the hash table's `get`, `add`,
bulk insert and `update`, each said once by the slot it concerns. -/

namespace Sys2Proof.Machine

/-! ### Circular buffer (R121, R122, R125) -/

theorem circAdd_of_full {α : Type} {cap : Nat} {items : List α} (hc : items.length = cap) (x : α) :
    circAdd cap items x = .fault .bufferFull := if_neg (by omega)

/-- Adding two lists of items in a row is adding the first and then the second. -/
theorem circAddAll_append {α : Type} {cap : Nat} {items xs ys : List α} :
    circAddAll cap items (xs ++ ys) = andThen (circAddAll cap items xs) fun t => circAddAll cap t ys := by
  induction xs generalizing items with
  | nil => rfl
  | cons x xs ih => simp only [List.cons_append, circAddAll, ih, andThen_assoc]

theorem repeat_circRemove {α : Type} (m : Nat) (items : List α) : Nat.repeat circRemove m items = items.drop m := by
  induction m with
  | zero => rfl
  | succ m ih => rw [Nat.repeat, ih, circRemove, List.tail_drop]

/-- Settles O38: the adds by the room left, the removes as a drop from the front. -/
theorem circularBufferHoldsItsCapacity : Obligations.CircularBufferHoldsItsCapacity := by
  unfold Obligations.CircularBufferHoldsItsCapacity
  intro α cap xs x
  have hfits : xs.length ≤ cap → circAddAll cap [] xs = .next xs := fun hc =>
    circAddAll_of_le (items := []) (by simpa using hc)
  refine ⟨fun hlt => circAdd_eq_next.2 ⟨hlt, rfl⟩, fun hc => circAdd_of_full hc x, hfits, fun hc => ?_, rfl, rfl,
    fun m _ => ?_⟩
  · rw [circAddAll_append, hfits hc.le, andThen_next, circAddAll, circAdd_of_full hc, andThen_fault]
  · rw [repeat_circRemove]
    exact ⟨List.length_drop, rfl⟩

section
variable {α : Type} {h : HashFn} {keyOf : α → Int} {slots slots' : List (Option α)} {x : α}

/-! ### Room for an add (R128, R129) -/

/-- The probe sequence of every key passes every slot (R128). -/
theorem mem_probes_iff {c : Nat} {k : Int} {j : Nat} : j ∈ probes h c k ↔ j < c := by
  refine ⟨lt_length_of_mem_probes, fun hj => List.mem_map.2 ?_⟩
  have hhome : home h c k < c := by
    have := Int.emod_lt_of_pos (hashOf h k) (b := (c : Int)) (by omega)
    rw [home]
    omega
  refine ⟨(j + c - home h c k) % c, List.mem_range.2 (Nat.mod_lt _ (by omega)), ?_⟩
  rw [Nat.add_mod_mod, show home h c k + (j + c - home h c k) = j + c by omega, Nat.add_mod_right, Nat.mod_eq_of_lt hj]

/-- `add` succeeds exactly when some slot of the table is empty (R129). -/
theorem exists_tableAdd_iff :
    (∃ t, tableAdd h keyOf slots x = .next t) ↔ ∃ j, j < slots.length ∧ slotAt slots j = none := by
  constructor
  · rintro ⟨t, ht⟩
    obtain ⟨j, _, hl, hn, _⟩ := tableAdd_fills_first ht
    exact ⟨j, hl, hn⟩
  · rintro ⟨j, hl, hn⟩
    obtain ⟨i, hi⟩ := Option.isSome_iff_exists.1 <|
      List.find?_isSome (p := fun n => (slotAt slots n).isNone) (xs := probes h slots.length (keyOf x)) |>.2
        ⟨j, mem_probes_iff.2 hl, by rw [hn]; rfl⟩
    exact ⟨slots.set i (some x), by rw [tableAdd, hi]⟩

/-- `add` raises TableFull when no slot is empty (R129). -/
theorem tableAdd_of_full (hf : ∀ j, j < slots.length → slotAt slots j ≠ none) :
    tableAdd h keyOf slots x = .fault .tableFull := by
  have hnone : (probes h slots.length (keyOf x)).find? (fun n => (slotAt slots n).isNone) = none :=
    List.find?_eq_none.2 fun j hj => by simpa using hf j (mem_probes_iff.1 hj)
  rw [tableAdd, hnone]

/-! ### The empty slots, counted (R132) -/

theorem slotAt_eq_getElem {j : Nat} (hj : j < slots.length) : slotAt slots j = slots[j] := by
  simp [slotAt, hj]

/-- A table has an empty slot exactly when it has one or more of them. -/
theorem exists_empty_slot_iff : (∃ j, j < slots.length ∧ slotAt slots j = none) ↔ 0 < slots.countP Option.isNone := by
  rw [List.countP_pos_iff]
  constructor
  · rintro ⟨j, hl, hn⟩
    exact ⟨none, List.mem_iff_getElem.2 ⟨j, hl, slotAt_eq_getElem hl ▸ hn⟩, rfl⟩
  · rintro ⟨o, ho, hn⟩
    obtain ⟨j, hl, rfl⟩ := List.mem_iff_getElem.1 ho
    exact ⟨j, hl, by simpa [slotAt_eq_getElem hl] using hn⟩

/-- An `add` uses up one empty slot. -/
theorem countP_isNone_of_tableAdd (ha : tableAdd h keyOf slots x = .next slots') :
    slots'.countP Option.isNone + 1 = slots.countP Option.isNone := by
  obtain ⟨j, _, hl, hn, rfl⟩ := tableAdd_fills_first ha
  have hpos := exists_empty_slot_iff.1 ⟨j, hl, hn⟩
  have hj : slots[j] = none := slotAt_eq_getElem hl ▸ hn
  rw [List.countP_set hl, hj]
  simp only [Option.isNone_none, Option.isNone_some, if_true, Bool.false_eq_true, if_false]
  omega

/-- A bulk insert succeeds exactly when there are as many empty slots as items (R132). -/
theorem exists_tableAddAll_iff {xs : List α} :
    (∃ t, tableAddAll h keyOf slots xs = .next t) ↔ xs.length ≤ slots.countP Option.isNone := by
  induction xs generalizing slots with
  | nil => exact ⟨fun _ => Nat.zero_le _, fun _ => ⟨slots, rfl⟩⟩
  | cons x xs ih =>
    simp only [tableAddAll, andThen_eq_next, List.length_cons]
    constructor
    · rintro ⟨t, u, hu, ht⟩
      have hcount := countP_isNone_of_tableAdd hu
      have hrest := ih.1 ⟨t, ht⟩
      omega
    · intro hroom
      obtain ⟨u, hu⟩ := exists_tableAdd_iff.2 (exists_empty_slot_iff.2 (by omega : 0 < slots.countP Option.isNone))
      have hcount := countP_isNone_of_tableAdd (h := h) (keyOf := keyOf) hu
      obtain ⟨t, ht⟩ := ih.2 (by omega : xs.length ≤ u.countP Option.isNone)
      exact ⟨t, u, hu, ht⟩

/-- Inserting two lists of items in a row is inserting the first and then the second. -/
theorem tableAddAll_append {xs ys : List α} :
    tableAddAll h keyOf slots (xs ++ ys) =
      andThen (tableAddAll h keyOf slots xs) fun t => tableAddAll h keyOf t ys := by
  induction xs generalizing slots with
  | nil => rfl
  | cons x xs ih => simp only [List.cons_append, tableAddAll, ih, andThen_assoc]

theorem tableAddAll_singleton : tableAddAll h keyOf slots [x] = tableAdd h keyOf slots x := by
  unfold tableAddAll
  cases tableAdd h keyOf slots x <;> rfl

/-! ### What `get` reads (R130, R133) -/

/-- `get` answers the entry of the slot its lookup ends at. -/
theorem tableGet_eq_some_slot {k : Int} {y : α} (hg : tableGet h keyOf slots k = some y) :
    ∃ j, findSlot keyOf slots k (probes h slots.length k) = some j ∧ slotAt slots j = some y :=
  Option.bind_eq_some_iff.1 hg

/-- In a sound table `get` answers exactly the entries of the table, each by its own key (R133). -/
theorem TableSound.tableGet_eq_some_iff (hs : TableSound h keyOf slots) {k : Int} {y : α} :
    tableGet h keyOf slots k = some y ↔ (∃ j, slotAt slots j = some y) ∧ keyOf y = k := by
  constructor
  · intro hg
    obtain ⟨j, _, hj⟩ := tableGet_eq_some_slot hg
    exact ⟨⟨j, hj⟩, tableGet_eq_some_key hg⟩
  · rintro ⟨⟨j, hj⟩, rfl⟩
    exact Option.bind_eq_some_iff.2 ⟨j, hs j y hj, hj⟩

/-- The entries of another key are those that stood there before a write. -/
theorem TablePut.exists_slotAt_iff (hp : TablePut h keyOf slots x slots') {y : α} (hy : keyOf y ≠ keyOf x) :
    (∃ i, slotAt slots' i = some y) ↔ ∃ i, slotAt slots i = some y := by
  constructor
  · rintro ⟨i, hi⟩
    exact ⟨i, (hp.slotAt_eq hi).resolve_left fun he => hy (he ▸ rfl)⟩
  · rintro ⟨i, hi⟩
    obtain ⟨j, _, rfl, hk⟩ := hp.eq_set
    have hij : i ≠ j := fun he => hy (hk y (he ▸ hi))
    exact ⟨i, (slotAt_set_other hij _).trans hi⟩

theorem TablePut.tableGet_same (hp : TablePut h keyOf slots x slots') (hs : TableSound h keyOf slots) :
    tableGet h keyOf slots' (keyOf x) = some x := by
  rw [(hp.sound hs).tableGet_eq_some_iff]
  obtain ⟨j, hj, rfl, _⟩ := hp.eq_set
  exact ⟨⟨j, slotAt_set_same hj _⟩, rfl⟩

theorem TablePut.tableGet_other (hp : TablePut h keyOf slots x slots') (hs : TableSound h keyOf slots) {k : Int}
    (hk : k ≠ keyOf x) : tableGet h keyOf slots' k = tableGet h keyOf slots k := by
  ext y
  rw [(hp.sound hs).tableGet_eq_some_iff, hs.tableGet_eq_some_iff]
  exact and_congr_left fun hy => hp.exists_slotAt_iff (hy ▸ hk)

/-- A bulk insert of items of distinct absent keys into a sound table: every item is found, every other key reads as
before, and the table stays sound (R132, R133). -/
theorem tableAddAll_get {xs : List α} (hs : TableSound h keyOf slots) (hd : (xs.map keyOf).Nodup)
    (hg : ∀ y ∈ xs, tableGet h keyOf slots (keyOf y) = none) (ha : tableAddAll h keyOf slots xs = .next slots') :
    (∀ y ∈ xs, tableGet h keyOf slots' (keyOf y) = some y) ∧
    (∀ k, k ∉ xs.map keyOf → tableGet h keyOf slots' k = tableGet h keyOf slots k) ∧ TableSound h keyOf slots' := by
  induction xs generalizing slots with
  | nil =>
    cases ha
    exact ⟨fun y hy => (List.not_mem_nil hy).elim, fun _ _ => rfl, hs⟩
  | cons x xs ih =>
    obtain ⟨u, hu, ha⟩ := andThen_eq_next.1 ha
    obtain ⟨hx, hd⟩ := List.nodup_cons.1 hd
    obtain ⟨hgx, hgxs⟩ := List.forall_mem_cons.1 hg
    have hp : TablePut h keyOf slots x u := .added hgx hu
    have habsent : ∀ y ∈ xs, tableGet h keyOf u (keyOf y) = none := fun y hy => by
      have hne : keyOf y ≠ keyOf x := fun he => hx (he ▸ List.mem_map_of_mem hy)
      rw [hp.tableGet_other hs hne, hgxs y hy]
    obtain ⟨hall, hother, hsound⟩ := ih (hp.sound hs) hd habsent ha
    refine ⟨List.forall_mem_cons.2 ⟨(hother _ hx).trans (hp.tableGet_same hs), hall⟩, fun k hk => ?_, hsound⟩
    obtain ⟨hkx, hkxs⟩ := not_or.1 (mt List.mem_cons.2 hk)
    rw [hother k hkxs, hp.tableGet_other hs hkx]

/-! ### Update (R131) -/

theorem tableUpdate_of_absent (hg : tableGet h keyOf slots (keyOf x) = none) :
    tableUpdate h keyOf slots x = .fault .notFound := by
  rw [tableUpdate, tableGet_eq_none.1 hg]

theorem exists_tableUpdate_of_present (hg : tableGet h keyOf slots (keyOf x) ≠ none) :
    ∃ t, tableUpdate h keyOf slots x = .next t := by
  obtain ⟨y, hy⟩ := Option.ne_none_iff_exists'.1 hg
  obtain ⟨j, hj, _⟩ := tableGet_eq_some_slot hy
  exact ⟨slots.set j (some x), by rw [tableUpdate, hj]⟩

/-- An update leaves every lookup at the slot it had, in any table: the slot's entry keeps its key. So `get` reads the
new item with its key, and with every other key what it read before. -/
theorem tableGet_of_tableUpdate (hu : tableUpdate h keyOf slots x = .next slots') :
    tableGet h keyOf slots' (keyOf x) = some x ∧
    ∀ k, k ≠ keyOf x → tableGet h keyOf slots' k = tableGet h keyOf slots k := by
  obtain ⟨j, hj, rfl⟩ := tableUpdate_eq_next hu
  obtain ⟨hm, z, hz, hzx⟩ := findSlot_eq_some hj
  have hfind : ∀ k, findSlot keyOf (slots.set j (some x)) k (probes h (slots.set j (some x)).length k) =
      findSlot keyOf slots k (probes h slots.length k) := fun k => by
    rw [List.length_set, findSlot_replace hz hzx]
  constructor
  · rw [tableGet, hfind, hj]
    exact slotAt_set_same (lt_length_of_mem_probes hm) _
  · intro k hk
    rw [tableGet, tableGet, hfind]
    cases hi : findSlot keyOf slots k (probes h slots.length k) with
    | none => rfl
    | some i =>
      obtain ⟨_, y, hy, hyk⟩ := findSlot_eq_some hi
      have hij : i ≠ j := by
        rintro rfl
        rw [hz] at hy
        cases hy
        exact hk (hyk.symm.trans hzx)
      exact slotAt_set_other hij _

end

/-- Settles O39: room by the empty slots a probe sequence passes, reads by the entries of a sound table, the bulk insert
by induction on its items. -/
theorem hashTableAddThenGet : Obligations.HashTableAddThenGet := by
  unfold Obligations.HashTableAddThenGet
  intro α keyOf h slots x xs
  refine ⟨exists_tableAdd_iff, tableAdd_of_full, fun t hs hg ha => ?_, rfl, ?_, exists_tableAddAll_iff,
    fun t hs hd hg ha => ?_⟩
  · have hp : TablePut h keyOf slots x t := .added hg ha
    exact ⟨hp.tableGet_same hs, fun k hk => hp.tableGet_other hs hk, hp.length_eq, hp.sound hs⟩
  · simp only [tableAddAll_append, tableAddAll_singleton]
  · obtain ⟨hall, _, hsound⟩ := tableAddAll_get hs hd hg ha
    exact ⟨hall, hsound⟩

/-- Settles O40: an update leaves every lookup at its slot. -/
theorem hashTableUpdate : Obligations.HashTableUpdate := by
  unfold Obligations.HashTableUpdate
  intro α keyOf h slots x
  refine ⟨tableUpdate_of_absent, fun hg => ?_⟩
  obtain ⟨t, ht⟩ := exists_tableUpdate_of_present hg
  obtain ⟨hsame, hother⟩ := tableGet_of_tableUpdate ht
  exact ⟨t, ht, hsame, hother, (TablePut.rewritten ht).length_eq⟩

end Sys2Proof.Machine
end

section
/-! The address generation unit (O35 to O37): the evaluation reaches through the operator stack of the shunting-yard, which
after an operand holds at most one `+` or `-` and one `*` or `/` above it. -/

namespace Sys2Proof.Machine

variable {expr : Token} {f : RegFile} {t : Token} {v prod sum a b : Int} {o p : AguOp} {st : List AguOp} {vs : List Int}
  {rest : List (AguOp × Token × Int)}

/-! ### The two readings of an operator -/

theorem AguOp.prec_eq_zero_or_one (o : AguOp) : o.prec = 0 ∨ o.prec = 1 := by
  cases o <;> simp [AguOp.prec]

theorem popOps_of_prec_le (h : o.prec ≤ p.prec) : popOps o (p :: st) = (p :: (popOps o st).1, (popOps o st).2) := if_pos h

theorem popOps_of_prec_lt (h : p.prec < o.prec) : popOps o (p :: st) = ([], p :: st) := if_neg (Nat.not_le.2 h)

theorem evalPostfix_op (ts : List ExprTok) :
    evalPostfix expr f (.op o :: ts) (b :: a :: vs) =
      andThen (aguApply expr o a b) fun v => evalPostfix expr f ts (v :: vs) := rfl

theorem evalPostfix_operand (h : operandValue f t = some v) (ts : List ExprTok) :
    evalPostfix expr f (.operand t :: ts) vs = evalPostfix expr f ts (v :: vs) := by
  rw [evalPostfix, h]

/-- `+` and `-` finish the product before them (R154). -/
theorem infixFrom_of_prec_zero (h : p.prec = 0) (r : List (AguOp × Int)) :
    infixFrom expr sum o prod ((p, v) :: r) =
      andThen (aguApply expr o sum prod) fun sum' => infixFrom expr sum' p v r := by
  cases p with
  | add | sub => rfl
  | mul | div => cases h

/-- `*` and `/` go on with the product before them (R154). -/
theorem infixFrom_of_prec_one (h : p.prec = 1) (r : List (AguOp × Int)) :
    infixFrom expr sum o prod ((p, v) :: r) =
      andThen (aguApply expr p prod v) fun prod' => infixFrom expr sum o prod' r := by
  cases p with
  | add | sub => cases h
  | mul | div => rfl

/-! ### The conversion and the evaluation together -/

/-- The operator and operand tokens after the first operand. -/
def infixToks (rest : List (AguOp × Token × Int)) : List ExprTok := rest.flatMap fun e => [.op e.1, .operand e.2.1]

theorem infixToks_cons : infixToks ((o, t, v) :: rest) = .op o :: .operand t :: infixToks rest := rfl

/-- A `*` or `/` on top of the operator stack is applied to the two topmost values next, whatever token follows. -/
theorem evalPostfix_top_prec_one (h : p.prec = 1) :
    evalPostfix expr f (postfixFrom (infixToks rest) (p :: st)) (b :: a :: vs) =
      andThen (aguApply expr p a b) fun q => evalPostfix expr f (postfixFrom (infixToks rest) st) (q :: vs) := by
  cases rest with
  | nil => rfl
  | cons e rest =>
    have hle : e.1.prec ≤ p.prec := by have := e.1.prec_eq_zero_or_one; omega
    rw [infixToks_cons, postfixFrom, popOps_of_prec_le hle]
    rfl

/-- What the operator stack and the values below the product hold while `sum o prod` is being read: nothing before the
first `+` or `-`, where the product is the whole sum, and then that operator and the sum. -/
inductive SumPending : List AguOp → List Int → Int → AguOp → Prop where
  | first : SumPending [] [] 0 .add
  | after {o : AguOp} {sum : Int} (ho : o.prec = 0) : SumPending [o] [sum] sum o

theorem SumPending.popOps_of_prec_zero (hs : SumPending st vs sum o) (hp : p.prec = 0) : popOps p st = (st, []) := by
  cases hs with
  | first => rfl
  | after ho => rw [popOps_of_prec_le (by omega)]; rfl

theorem SumPending.popOps_of_prec_one (hs : SumPending st vs sum o) (hp : p.prec = 1) : popOps p st = ([], st) := by
  cases hs with
  | first => rfl
  | after ho => exact popOps_of_prec_lt (by omega)

/-- Popping the pending operator adds the product to the sum, or subtracts it. -/
theorem SumPending.evalPostfix_flush (hs : SumPending st vs sum o) (ts : List ExprTok) :
    evalPostfix expr f (st.map .op ++ ts) (prod :: vs) =
      andThen (aguApply expr o sum prod) fun sum' => evalPostfix expr f ts [sum'] := by
  cases hs with
  | first => rw [aguApply, andThen_next, Int.zero_add]; rfl
  | after ho => rfl

theorem andThen_evalPostfix_nil (x : Result Int) : (andThen x fun v => evalPostfix expr f [] [v]) = x := by
  cases x <;> rfl

/-- The refinement: from any point after an operand, conversion and evaluation give the left-to-right reading (R154 to
R156). -/
theorem SumPending.evalPostfix_eq_infixFrom (hr : ∀ e ∈ rest, operandValue f e.2.1 = some e.2.2)
    (hs : SumPending st vs sum o) :
    evalPostfix expr f (postfixFrom (infixToks rest) st) (prod :: vs) =
      infixFrom expr sum o prod (rest.map fun e => (e.1, e.2.2)) := by
  induction rest generalizing st vs sum o prod with
  | nil =>
    calc evalPostfix expr f (st.map .op) (prod :: vs)
      _ = evalPostfix expr f (st.map .op ++ []) (prod :: vs) := by rw [List.append_nil]
      _ = aguApply expr o sum prod := by rw [hs.evalPostfix_flush, andThen_evalPostfix_nil]
  | cons e rest ih =>
    obtain ⟨p, t, v⟩ := e
    obtain ⟨ht, hrest⟩ := List.forall_mem_cons.1 hr
    rw [infixToks_cons, List.map_cons, postfixFrom]
    rcases p.prec_eq_zero_or_one with hp | hp
    · rw [hs.popOps_of_prec_zero hp, hs.evalPostfix_flush, infixFrom_of_prec_zero hp]
      congr 1
      funext sum'
      rw [postfixFrom, evalPostfix_operand ht]
      exact ih hrest (.after hp)
    · rw [hs.popOps_of_prec_one hp, infixFrom_of_prec_one hp, List.map_nil, List.nil_append, postfixFrom,
        evalPostfix_operand ht, evalPostfix_top_prec_one hp]
      congr 1
      funext prod'
      exact ih hrest hs

/-- An alternating list of operators and operands with values evaluates to its left-to-right reading. -/
theorem evalPostfix_toPostfix (ht : operandValue f t = some v) (hr : ∀ e ∈ rest, operandValue f e.2.1 = some e.2.2) :
    evalPostfix expr f (toPostfix (.operand t :: infixToks rest)) [] =
      infixValue expr v (rest.map fun e => (e.1, e.2.2)) := by
  rw [toPostfix, postfixFrom, evalPostfix_operand ht]
  exact SumPending.first.evalPostfix_eq_infixFrom hr

/-! ### Brackets (R151, R157) -/

theorem stripBrackets_enclosed (e : Token) : stripBrackets ('[' :: e ++ [']']) = e := by
  simp [stripBrackets]

theorem stripBrackets_of_not_isBracketed {e : Token} (h : isBracketed e = false) : stripBrackets e = e := by
  unfold isBracketed at h
  split at h
  · exact if_neg (by simpa using h)
  · rw [stripBrackets]
    assumption

theorem aguApply_div_eq_next : aguApply expr .div a b = .next v ↔ b ≠ 0 ∧ a.tdiv b = v := by
  unfold aguApply
  by_cases hb : b = 0 <;> simp [hb]

theorem aguApply_next_congr (expr' : Token) (h : aguApply expr o a b = .next v) : aguApply expr' o a b = .next v := by
  cases o with
  | add | sub | mul => exact h
  | div => exact aguApply_div_eq_next.2 (aguApply_div_eq_next.1 h)

/-- The expression's text shows in the faults only: a value does not depend on it. -/
theorem evalPostfix_next_congr (expr' : Token) {ts : List ExprTok} (h : evalPostfix expr f ts vs = .next v) :
    evalPostfix expr' f ts vs = .next v := by
  induction ts generalizing vs with
  | nil =>
    match vs, h with
    | [_], h => exact h
  | cons k ts ih =>
    cases k with
    | operand t =>
      rw [evalPostfix] at h ⊢
      cases ht : operandValue f t with
      | none => rw [ht] at h; cases h
      | some w => rw [ht] at h; exact ih h
    | op o =>
      match vs, h with
      | b :: a :: vs, h =>
        obtain ⟨w, hw, h⟩ := andThen_eq_next.1 h
        exact andThen_eq_next.2 ⟨w, aguApply_next_congr expr' hw, ih h⟩

/-! ### Expressions whose tokens are known (R153) -/

theorem operandValue_of_regTokOf {r : RegTok} (h : regTokOf f.names t = some r) :
    operandValue f t = some (readView r.suffix.view (f.get r.reg)) := by
  rw [operandValue, h]

/-- A token of digits that names no register. -/
def isLiteral (names : List Gpr) (t : Token) : Bool := (regTokOf names t).isNone && isDigits t

theorem operandValue_of_isLiteral (h : isLiteral f.names t = true) : operandValue f t = some (natOfDigits t : Int) := by
  obtain ⟨hreg, hdigits⟩ := Bool.and_eq_true_iff.1 h
  rw [operandValue, Option.isNone_iff_eq_none.1 hreg]
  exact if_pos hdigits

/-- An expression is worth the left-to-right reading of its tokens. -/
theorem generate_eq_infixValue (hk : tokenize expr = .operand t :: infixToks rest) (ht : operandValue f t = some v)
    (hr : ∀ e ∈ rest, operandValue f e.2.1 = some e.2.2) :
    generate expr f = infixValue expr v (rest.map fun e => (e.1, e.2.2)) := by
  rw [generate, hk, evalPostfix_toPostfix ht hr]

/-- An expression of literals is worth the same whatever the registers hold. -/
theorem generate_of_literals {names : List Gpr} {r : Int} (hf : f.names = names)
    (hk : tokenize expr = .operand t :: infixToks rest) (ht : isLiteral names t = true)
    (hr : ∀ e ∈ rest, isLiteral names e.2.1 = true ∧ (natOfDigits e.2.1 : Int) = e.2.2)
    (hv : infixValue expr (natOfDigits t) (rest.map fun e => (e.1, e.2.2)) = .next r) : generate expr f = .next r := by
  subst hf
  rw [generate_eq_infixValue hk (operandValue_of_isLiteral ht), hv]
  intro e he
  obtain ⟨hlit, hval⟩ := hr e he
  rw [operandValue_of_isLiteral hlit, hval]

/-! ### The obligations -/

/-- Settles O36: from the empty operator stack, by induction on the pairs of operator and operand. -/
theorem aguEvaluatesWithPrecedence : Obligations.AguEvaluatesWithPrecedence := by
  unfold Obligations.AguEvaluatesWithPrecedence
  intro expr f t v rest ht hr
  exact evalPostfix_toPostfix ht hr

/-- Settles O37: the tokens are the same with and without the brackets, and a value does not depend on the text a fault
would carry. -/
theorem aguStripsOnePairOfBrackets : Obligations.AguStripsOnePairOfBrackets := by
  unfold Obligations.AguStripsOnePairOfBrackets
  refine ⟨fun e f v hb => ?_, fun _ => rfl⟩
  have htoks : tokenize ('[' :: e ++ [']']) = tokenize e := by
    rw [tokenize, tokenize, stripBrackets_enclosed, stripBrackets_of_not_isBracketed hb]
  rw [generate, generate, htoks]
  exact ⟨evalPostfix_next_congr e, evalPostfix_next_congr _⟩

/-- Settles O35: each example's tokens, and their left-to-right reading. -/
theorem aguExamples : Obligations.AguExamples := by
  unfold Obligations.AguExamples
  intro f hf
  have hrbx : regTokOf f.names "rbx".toList = some ⟨"rbx".toList, .none⟩ := by rw [hf]; decide
  have hrcx : regTokOf f.names "rcx".toList = some ⟨"rcx".toList, .none⟩ := by rw [hf]; decide
  have hfive : operandValue f "5".toList = some 5 := operandValue_of_isLiteral (by rw [hf]; decide)
  have hregs : generate "[rbx+rcx+5]".toList f =
      infixValue _ (sint64 (f.get "rbx".toList)) [(.add, sint64 (f.get "rcx".toList)), (.add, 5)] :=
    generate_eq_infixValue (rest := [(.add, "rcx".toList, _), (.add, "5".toList, 5)]) rfl (operandValue_of_regTokOf hrbx)
      (List.forall_mem_cons.2 ⟨operandValue_of_regTokOf hrcx, List.forall_mem_singleton.2 hfive⟩)
  refine ⟨?_, ?_, ?_, ?_, ?_, ?_, ?_, ?_⟩
  · simp only [hregs, infixValue, infixFrom, aguApply, andThen_next, Int.zero_add]
  · exact generate_of_literals (rest := [(.mul, "2".toList, 2)]) hf rfl (by decide) (by decide) rfl
  · exact generate_of_literals (rest := [(.add, "3".toList, 3), (.mul, "4".toList, 4)]) hf rfl (by decide) (by decide) rfl
  · exact generate_of_literals (rest := [(.sub, "2".toList, 2), (.sub, "1".toList, 1)]) hf rfl (by decide) (by decide) rfl
  · exact generate_of_literals (rest := [(.mul, "3".toList, 3), (.add, "4".toList, 4)]) hf rfl (by decide) (by decide) rfl
  · exact generate_of_literals (rest := [(.div, "2".toList, 2)]) hf rfl (by decide) (by decide) rfl
  · exact generate_of_literals (rest := [(.sub, "7".toList, 7), (.div, "2".toList, 2)]) hf rfl (by decide) (by decide) rfl
  · exact generate_of_literals (rest := [(.div, "7".toList, 7), (.mul, "7".toList, 7)]) hf rfl (by decide) (by decide) rfl

end Sys2Proof.Machine
end

section
/-! The predictors (O21, O41 to O47): what `predict` answers by what its two lookups find, what `update` leaves for them
to find, and when it has room for it. -/

namespace Sys2Proof.Machine

variable {c : Config} {p q p' : PredictorState} {a d k pc : Int} {b : Bool} {e : BtbEntry} {x : DirEntry} {v : Certainty}

/-! ### predict and update of each variant (R173) -/

theorem predict_of_unstalled (hs : p.stalled = false) : predict c p pc = predictVariant c p pc := by
  simp [predict, hs]

theorem predict_alwaysNotTaken (hc : c.predictor = .alwaysNotTaken) (hs : p.stalled = false) :
    predict c p pc = .next (pc + 1, p) := by
  rw [predict_of_unstalled hs, predictVariant, hc, predictNotTaken]

theorem predict_alwaysTaken (hc : c.predictor = .alwaysTaken) (hs : p.stalled = false) :
    predict c p pc = predictTaken c p pc := by
  rw [predict_of_unstalled hs, predictVariant, hc]

theorem predict_oneBit (hc : c.predictor = .oneBit) (hs : p.stalled = false) :
    predict c p pc = predictDirection c p pc := by
  rw [predict_of_unstalled hs, predictVariant, hc]

theorem predict_twoBit (hc : c.predictor = .twoBit) (hs : p.stalled = false) :
    predict c p pc = predictDirection c p pc := by
  rw [predict_of_unstalled hs, predictVariant, hc]

theorem predict_gshare (hc : c.predictor = .gshare) (hs : p.stalled = false) :
    predict c p pc = predictGshare c p pc := by
  rw [predict_of_unstalled hs, predictVariant, hc]

theorem update_alwaysNotTaken (hc : c.predictor = .alwaysNotTaken) : update c p a d b = .next p := by
  rw [update, hc, updateNotTaken]

theorem update_alwaysTaken (hc : c.predictor = .alwaysTaken) : update c p a d b = btbInsert c p a d := by
  rw [update, hc, updateTaken]

theorem update_oneBit (hc : c.predictor = .oneBit) : update c p a d b = updateOneBit c p a d b := by
  rw [update, hc]

theorem update_twoBit (hc : c.predictor = .twoBit) : update c p a d b = updateTwoBit c p a d b := by
  rw [update, hc]

theorem update_gshare (hc : c.predictor = .gshare) : update c p a d b = updateGshare c p a d b := by
  rw [update, hc]

/-! ### A prediction by what the lookups find (R176 to R184) -/

theorem predictTaken_of_miss (hb : btbGet c p pc = none) : predictTaken c p pc = .next (pc + 1, p) := by
  rw [predictTaken, hb]

theorem predictTaken_of_hit (hb : btbGet c p pc = some e) : predictTaken c p pc = .next (e.destination, p) := by
  rw [predictTaken, hb]

theorem predictDirection_of_hit (hb : btbGet c p pc = some e) (hd : dirGet c p pc = some x) :
    predictDirection c p pc = .next (if x.certainty.taken then e.destination else pc + 1, p) := by
  simp only [predictDirection, hb, hd]

theorem predictGshare_of_miss (hb : btbGet c p pc = none) : predictGshare c p pc = .next (pc + 1, p) := by
  rw [predictGshare, hb]

theorem predictGshare_of_hit (hb : btbGet c p pc = some e) :
    predictGshare c p pc = andThen (pushPrediction c p (gshareTaken c p pc)) fun p' =>
      .next (if gshareTaken c p pc then e.destination else pc + 1, p') := by
  rw [predictGshare, hb]

theorem gshareTaken_of_miss (hd : dirGet c p (xorInt pc (historyInt p.ghr)) = none) : gshareTaken c p pc = true := by
  rw [gshareTaken, hd]

theorem gshareTaken_of_hit (hd : dirGet c p (xorInt pc (historyInt p.ghr)) = some x) :
    gshareTaken c p pc = x.certainty.taken := by
  rw [gshareTaken, hd]

/-- With room in the OBQ the push moves the oldest bit of the history over and the prediction in (R184). -/
theorem pushPrediction_of_room {b₀ : Bool} {bs : List Bool} (hg : p.ghr = b₀ :: bs)
    (hq : p.obq.length < c.obqCapacity) :
    pushPrediction c p b = .next { p with obq := p.obq ++ [b₀], ghr := bs ++ [b] } := by
  have hget : circGet p.ghr 0 = .next b₀ := by rw [hg]; rfl
  have hadd : circAdd c.obqCapacity p.obq b₀ = .next (p.obq ++ [b₀]) := circAdd_eq_next.2 ⟨hq, rfl⟩
  rw [pushPrediction, hget, andThen_next, hadd, andThen_next, hg, circRemove, List.tail_cons]

theorem pushPrediction_of_full {b₀ : Bool} {bs : List Bool} (hg : p.ghr = b₀ :: bs)
    (hq : c.obqCapacity ≤ p.obq.length) : pushPrediction c p b = .fault .bufferFull := by
  have hget : circGet p.ghr 0 = .next b₀ := by rw [hg]; rfl
  rw [pushPrediction, hget, andThen_next, circAdd, if_neg (Nat.not_lt.2 hq), andThen_fault]

/-! ### What a write leaves to be found (R129 to R131) -/

/-- `get` finds what was just written, in a sound table or not: the lookup of the item's key takes the path of the
write. -/
theorem TablePut.tableGet_written {α : Type} {h : HashFn} {keyOf : α → Int} {slots slots' : List (Option α)} {y : α}
    (hp : TablePut h keyOf slots y slots') : tableGet h keyOf slots' (keyOf y) = some y := by
  cases hp with
  | added hg ha =>
    obtain ⟨j, hj, hl, _, rfl⟩ := tableAdd_fills_first ha
    rw [tableGet, List.length_set, findSlot_fill_of_none (tableGet_eq_none.1 hg) hj hl]
    exact slotAt_set_same hl _
  | rewritten hu => exact (tableGet_of_tableUpdate hu).1

theorem btbInsert_of_present (hb : btbGet c p a = some e) : btbInsert c p a d = .next p := by
  rw [btbInsert, hb]

theorem btbInsert_of_absent (hb : btbGet c p a = none) :
    btbInsert c p a d = andThen (tableAdd c.hash BtbEntry.key p.btb ⟨a, d⟩) fun t => .next { p with btb := t } := by
  rw [btbInsert, hb]

/-- After an insertion the branch has the entry it had, or the new one if it had none; the rest of the predictor is as
before (R177). -/
theorem btbInsert_get (h : btbInsert c p a d = .next p') :
    btbGet c p' a = some ((btbGet c p a).getD ⟨a, d⟩) ∧ p' = { p with btb := p'.btb } := by
  cases hb : btbGet c p a with
  | some e =>
    rw [btbInsert_of_present hb] at h
    cases h
    exact ⟨hb, rfl⟩
  | none =>
    rw [btbInsert_of_absent hb] at h
    obtain ⟨t, ht, h⟩ := andThen_eq_next.1 h
    cases h
    have hput : TablePut c.hash BtbEntry.key p.btb ⟨a, d⟩ t := .added hb ht
    exact ⟨hput.tableGet_written, rfl⟩

theorem dirPut_get (h : dirPut c p k v = .next p') : dirGet c p' k = some ⟨k, v⟩ ∧ p' = { p with dir := p'.dir } := by
  obtain ⟨t, ht, rfl⟩ := dirPut_put h
  exact ⟨ht.tableGet_written, rfl⟩

/-! ### Room for an update (R129, R131, R188) -/

/-- Some slot of a table is empty. -/
def HasEmptySlot {α : Type} (slots : List (Option α)) : Prop := ∃ j, j < slots.length ∧ slotAt slots j = none

/-- The write that the BTB of gshare and the direction buffer share: an absent key is added, a present one rewritten
(R186). -/
def tablePut {α : Type} (h : HashFn) (keyOf : α → Int) (slots : List (Option α)) (y : α) : Result (List (Option α)) :=
  if (tableGet h keyOf slots (keyOf y)).isSome then tableUpdate h keyOf slots y else tableAdd h keyOf slots y

theorem btbPut_eq_tablePut :
    btbPut c p a d = andThen (tablePut c.hash BtbEntry.key p.btb ⟨a, d⟩) fun t => .next { p with btb := t } := by
  rw [btbPut, tablePut]
  change _ = andThen (if (btbGet c p a).isSome then _ else _) _
  cases btbGet c p a <;> rfl

theorem dirPut_eq_tablePut :
    dirPut c p k v = andThen (tablePut c.hash DirEntry.key p.dir ⟨k, v⟩) fun t => .next { p with dir := t } := by
  rw [dirPut, tablePut]
  change _ = andThen (if (dirGet c p k).isSome then _ else _) _
  cases dirGet c p k <;> rfl

/-- A write needs room only for a key that is absent. -/
theorem exists_tablePut {α : Type} {h : HashFn} {keyOf : α → Int} {slots : List (Option α)} {y : α}
    (hr : tableGet h keyOf slots (keyOf y) = none → HasEmptySlot slots) : ∃ t, tablePut h keyOf slots y = .next t := by
  rw [tablePut]
  split
  · next hg => exact exists_tableUpdate_of_present (Option.ne_none_iff_isSome.2 hg)
  · next hg => exact exists_tableAdd_iff.2 (hr (Option.not_isSome_iff_eq_none.1 hg))

theorem exists_btbPut (hr : btbGet c p a = none → HasEmptySlot p.btb) : ∃ p', btbPut c p a d = .next p' := by
  obtain ⟨t, ht⟩ := exists_tablePut (y := (⟨a, d⟩ : BtbEntry)) hr
  exact ⟨{ p with btb := t }, by rw [btbPut_eq_tablePut, ht, andThen_next]⟩

theorem exists_dirPut (hr : dirGet c p k = none → HasEmptySlot p.dir) : ∃ p', dirPut c p k v = .next p' := by
  obtain ⟨t, ht⟩ := exists_tablePut (y := (⟨k, v⟩ : DirEntry)) hr
  exact ⟨{ p with dir := t }, by rw [dirPut_eq_tablePut, ht, andThen_next]⟩

theorem exists_btbInsert (hr : btbGet c p a = none → HasEmptySlot p.btb) : ∃ p', btbInsert c p a d = .next p' := by
  cases hb : btbGet c p a with
  | some e => exact ⟨p, btbInsert_of_present hb⟩
  | none =>
    obtain ⟨t, ht⟩ := (exists_tableAdd_iff (h := c.hash) (keyOf := BtbEntry.key) (x := ⟨a, d⟩)).2 (hr hb)
    exact ⟨{ p with btb := t }, by rw [btbInsert_of_absent hb, ht, andThen_next]⟩

/-- The two writes of OneBit and TwoBit complete: the first leaves the direction buffer as it is. -/
theorem exists_btbInsert_dirPut {f : PredictorState → Certainty} (hb : btbGet c p a = none → HasEmptySlot p.btb)
    (hd : dirGet c p k = none → HasEmptySlot p.dir) :
    ∃ p', andThen (btbInsert c p a d) (fun q => dirPut c q k (f q)) = .next p' := by
  obtain ⟨q, hq⟩ := exists_btbInsert (d := d) hb
  have hdq : dirGet c q k = none → HasEmptySlot q.dir := by
    rw [(btbInsert_get hq).2]
    exact hd
  rw [hq, andThen_next]
  exact exists_dirPut hdq

theorem exists_updateGshare (hb : HasEmptySlot p.btb) (hd : HasEmptySlot p.dir) :
    ∃ p', updateGshare c p a d b = .next p' := by
  obtain ⟨p1, h1⟩ := exists_dirPut (c := c) (k := xorInt (historyInt (confirmedHistory p)) a) (v := .outcome b)
    fun _ => hd
  have hb1 : HasEmptySlot p1.btb := by
    rw [(dirPut_get h1).2]
    exact hb
  obtain ⟨p2, h2⟩ := exists_btbPut (c := c) (a := a) (d := d) fun _ => hb1
  exact ⟨settleHistory p2 (confirmedHistory p) b, by rw [updateGshare, h1, andThen_next, h2, andThen_next]⟩

/-- An update of any variant completes when both tables have an empty slot. -/
theorem exists_update (hb : HasEmptySlot p.btb) (hd : HasEmptySlot p.dir) : ∃ p', update c p a d b = .next p' := by
  cases hc : c.predictor with
  | alwaysNotTaken => exact ⟨p, update_alwaysNotTaken hc⟩
  | alwaysTaken =>
    rw [update_alwaysTaken hc]
    exact exists_btbInsert fun _ => hb
  | oneBit =>
    rw [update_oneBit hc]
    exact exists_btbInsert_dirPut (fun _ => hb) fun _ => hd
  | twoBit =>
    rw [update_twoBit hc]
    exact exists_btbInsert_dirPut (fun _ => hb) fun _ => hd
  | gshare =>
    rw [update_gshare hc]
    exact exists_updateGshare hb hd

/-! ### What OneBit and TwoBit learn (R179, R181) -/

/-- What an update of OneBit or TwoBit leaves for the next prediction of its branch: the first destination it was told,
and the certainty just entered. -/
structure BranchLearned (c : Config) (p p' : PredictorState) (a d : Int) (v : Certainty) : Prop where
  stalled : p'.stalled = p.stalled
  btb : btbGet c p' a = some ((btbGet c p a).getD ⟨a, d⟩)
  dir : dirGet c p' a = some ⟨a, v⟩

theorem BranchLearned.of_btbInsert_dirPut (h : btbInsert c p a d = .next q) (h' : dirPut c q a v = .next p') :
    BranchLearned c p p' a d v := by
  obtain ⟨hb, hq⟩ := btbInsert_get h
  obtain ⟨hd, hp'⟩ := dirPut_get h'
  refine ⟨by rw [hp', hq], ?_, hd⟩
  rw [← hb, hp']
  rfl

theorem BranchLearned.predictDirection (h : BranchLearned c p p' a d v) :
    predictDirection c p' a = .next (if v.taken then ((btbGet c p a).getD ⟨a, d⟩).destination else a + 1, p') :=
  predictDirection_of_hit h.btb h.dir

theorem updateOneBit_learned (h : updateOneBit c p a d b = .next p') : BranchLearned c p p' a d (.outcome b) := by
  obtain ⟨q, hq, h⟩ := andThen_eq_next.1 h
  exact .of_btbInsert_dirPut hq h

theorem updateTwoBit_learned (h : updateTwoBit c p a d b = .next p') :
    BranchLearned c p p' a d (.counter (nextCounter (dirGet c p a) b)) := by
  obtain ⟨q, hq, h⟩ := andThen_eq_next.1 h
  have hdir : dirGet c q a = dirGet c p a := by
    rw [(btbInsert_get hq).2]
    rfl
  rw [hdir] at h
  exact .of_btbInsert_dirPut hq h

theorem bumpCounter_eq_min_max (m : Fin 4) (b : Bool) :
    ((bumpCounter m b).val : Int) = if b then min (m.val + 1 : Int) 3 else max (m.val - 1 : Int) 0 := by
  revert m b
  decide

/-- Any outcomes of a branch that both tables know: its destination stays, and its counter takes one bump each. -/
theorem updateAll_twoBit_of_present {n : Fin 4} (hc : c.predictor = .twoBit) (hb : btbGet c p a = some e)
    (hd : dirGet c p a = some ⟨a, .counter n⟩) (outcomes : List Bool) :
    ∃ q, updateAll c a d outcomes p = .next q ∧ q.stalled = p.stalled ∧ btbGet c q a = some e ∧
      dirGet c q a = some ⟨a, .counter (outcomes.foldl bumpCounter n)⟩ := by
  induction outcomes generalizing p n with
  | nil => exact ⟨p, rfl, rfl, hb, hd⟩
  | cons b bs ih =>
    obtain ⟨p', hp'⟩ : ∃ p', updateTwoBit c p a d b = .next p' :=
      exists_btbInsert_dirPut (fun hn => by rw [hb] at hn; cases hn) fun hn => by rw [hd] at hn; cases hn
    obtain ⟨hs, hb', hd'⟩ := updateTwoBit_learned hp'
    rw [hb] at hb'
    rw [hd] at hd'
    obtain ⟨q, hq, hqs, hqb, hqd⟩ := ih hb' hd'
    exact ⟨q, by rw [updateAll, update_twoBit hc, hp', andThen_next, hq], hqs.trans hs, hqb, hqd⟩

/-! ### The history as a number, and exclusive-or (R13, R183) -/

/-- The number of a history, begun at any value: the bits before weigh in above all bits of the history. -/
theorem foldl_history (n : Int) (h : List Bool) :
    h.foldl (fun n b => 2 * n + (if b then 1 else 0)) n = n * 2 ^ h.length + historyInt h := by
  induction h generalizing n with
  | nil => simp [historyInt]
  | cons b h ih =>
    rw [historyInt, List.foldl_cons, List.foldl_cons, ih, ih, List.length_cons]
    ring

theorem historyInt_cons (b : Bool) (h : List Bool) :
    historyInt (b :: h) = (if b then 2 ^ h.length else 0) + historyInt h := by
  rw [historyInt, List.foldl_cons, foldl_history]
  cases b <;> simp

/-- The number of a history bit by bit: entry `i` of `N` weighs 2^(N-1-i). -/
theorem historyInt_eq_sum (h : List Bool) : historyInt h =
    ((List.range h.length).map (fun i => if h[i]? = some true then (2 : Int) ^ (h.length - 1 - i) else 0)).sum := by
  induction h with
  | nil => rfl
  | cons b h ih =>
    rw [historyInt_cons, ih, List.length_cons, List.range_succ_eq_map, List.map_cons, List.sum_cons, List.map_map]
    congr 1
    · simp
    · congr 1
      refine List.map_congr_left fun i _ => ?_
      rw [Function.comp, List.getElem?_cons_succ, show h.length + 1 - 1 - (i + 1) = h.length - 1 - i by omega]

theorem xorInt_eq_xor (m n : Int) : xorInt m n = Int.xor m n := by
  cases m <;> cases n <;> rfl

theorem testBit_xorInt (m n : Int) (i : Nat) : (xorInt m n).testBit i = (m.testBit i != n.testBit i) := by
  rw [xorInt_eq_xor, Int.testBit_lxor, Bool.bne_eq_xor]

/-! ### What gshare learns (R185, R186) -/

theorem settleHistory_of_confirmed (taken : Bool) (h : List Bool) (ho : p.obq.head? = some taken) :
    settleHistory p h taken = { p with obq := p.obq.tail } := if_pos ho

theorem settleHistory_of_not_confirmed (taken : Bool) (h : List Bool) (ho : p.obq.head? ≠ some taken) :
    settleHistory p h taken = { p with ghr := h.tail ++ [taken], obq := [] } := if_neg ho

/-- What a gshare update does: the direction at the history index, the destination in the BTB, the history settled. -/
theorem updateGshare_eq_next (h : updateGshare c p a d b = .next p') :
    ∃ btb dir, TablePut c.hash DirEntry.key p.dir ⟨xorInt (historyInt (confirmedHistory p)) a, .outcome b⟩ dir ∧
      TablePut c.hash BtbEntry.key p.btb ⟨a, d⟩ btb ∧
      p' = { settleHistory p (confirmedHistory p) b with btb := btb, dir := dir } := by
  obtain ⟨p1, h1, h⟩ := andThen_eq_next.1 h
  obtain ⟨p2, h2, h⟩ := andThen_eq_next.1 h
  obtain ⟨dir, hdir, rfl⟩ := dirPut_put h1
  obtain ⟨btb, hbtb, rfl⟩ := btbPut_put h2
  cases h
  exact ⟨btb, dir, hdir, hbtb, settleHistory_of_tables p btb dir _ b⟩

@[simp] theorem settleHistory_stalled (p : PredictorState) (h : List Bool) (taken : Bool) :
    (settleHistory p h taken).stalled = p.stalled := by
  unfold settleHistory
  split <;> rfl

/-! ### JMP (R267) -/

theorem exec_microJmp_of_rob {s : State} {cond : Cond} {w : Width} {r y : RobEntry} {rs : List RobEntry}
    (hr : s.rob = r :: y :: rs) :
    exec (.microJmp cond w) s =
      resolveBranch s r.issuing (sint64 s.accWord) (condHolds cond s.flags) y.speculative := by
  have harm : exec (.microJmp cond w) s = execMicroJmp cond w s := rfl
  rw [harm, execMicroJmp, hr]
  rfl

/-! ### The obligations -/

/-- Settles O21: a JMP with a successor does what its update does, and that has room. -/
theorem jmpCompletesWhileTheTablesHaveRoom : Obligations.JmpCompletesWhileTheTablesHaveRoom := by
  unfold Obligations.JmpCompletesWhileTheTablesHaveRoom
  intro s cond w r y rs hrob hroom
  obtain ⟨p, hp⟩ : ∃ p, update s.config s.predictor r.issuing (sint64 s.accWord) (condHolds cond s.flags) = .next p := by
    rcases hroom with hc | ⟨hb, hd⟩
    · exact ⟨_, update_alwaysNotTaken hc⟩
    · exact exists_update hb hd
  exact ⟨_, by rw [exec_microJmp_of_rob hrob, resolveBranch, hp, andThen_next]⟩

/-- Settles O42: AlwaysTaken finds after an update the entry that the branch had, or the new one if it had none. -/
theorem alwaysPredictors : Obligations.AlwaysPredictors := by
  unfold Obligations.AlwaysPredictors
  intro c p hs
  refine ⟨fun hc => ⟨fun pc => predict_alwaysNotTaken hc hs, fun a d b => update_alwaysNotTaken hc⟩, fun hc => ?_⟩
  refine ⟨fun pc hb => ?_, fun pc e hb => ?_, fun a d b p' hu => ?_⟩
  · rw [predict_alwaysTaken hc hs, predictTaken_of_miss hb]
  · rw [predict_alwaysTaken hc hs, predictTaken_of_hit hb]
  · rw [update_alwaysTaken hc] at hu
    constructor
    · intro hb
      obtain ⟨hb', hp'⟩ := btbInsert_get hu
      have hs' : p'.stalled = false := by rw [hp', ← hs]
      rw [predict_alwaysTaken hc hs', predictTaken_of_hit hb', hb, Option.getD_none]
    · intro e hb
      rw [btbInsert_of_present hb] at hu
      cases hu
      rfl

/-- Settles O43: the certainty that the update enters is the outcome itself. -/
theorem oneBitPredictsTheLastOutcome : Obligations.OneBitPredictsTheLastOutcome := by
  unfold Obligations.OneBitPredictsTheLastOutcome
  intro c p p' a d b hc hs hu
  rw [update_oneBit hc] at hu
  have hl := updateOneBit_learned hu
  rw [predict_oneBit hc (hl.stalled.trans hs), hl.predictDirection]
  cases btbGet c p a <;> rfl

/-- Settles O44: the certainty that the update enters is the seed or the bumped counter, and the prediction reads it. -/
theorem twoBitCountsTowardTheOutcome : Obligations.TwoBitCountsTowardTheOutcome := by
  unfold Obligations.TwoBitCountsTowardTheOutcome
  intro c p p' a d b hc hs hu
  rw [update_twoBit hc] at hu
  have hl := updateTwoBit_learned hu
  refine ⟨_, hl.dir, fun hd => ?_, fun x m hd hm => ?_, _, hl.btb, ?_⟩
  · rw [hd]
    rfl
  · obtain ⟨_, _⟩ := x
    cases hm
    rw [hd]
    exact bumpCounter_eq_min_max m b
  · rw [predict_twoBit hc (hl.stalled.trans hs), hl.predictDirection]
    simp only [Certainty.taken, decide_eq_true_eq]

/-- Settles O45: the first outcome enters both tables, and the other four bump the counter from its seed. -/
theorem twoBitSaturatesInFiveOutcomes : Obligations.TwoBitSaturatesInFiveOutcomes := by
  unfold Obligations.TwoBitSaturatesInFiveOutcomes
  intro c p a d b hc hs hb hd hroomb hroomd
  obtain ⟨p1, h1⟩ : ∃ p1, updateTwoBit c p a d b = .next p1 :=
    exists_btbInsert_dirPut (fun _ => hroomb) fun _ => hroomd
  obtain ⟨hs1, hb1, hd1⟩ := updateTwoBit_learned h1
  rw [hb, Option.getD_none] at hb1
  rw [hd] at hd1
  obtain ⟨q, hq, hqs, hqb, hqd⟩ := updateAll_twoBit_of_present (d := d) hc hb1 hd1 [b, b, b, b]
  have hcount : [b, b, b, b].foldl bumpCounter (nextCounter none b) = if b then 3 else 0 := by cases b <;> rfl
  rw [hcount] at hqd
  refine ⟨q, by rw [updateAll, update_twoBit hc, h1, andThen_next, hq], hqd, ?_⟩
  rw [predict_twoBit hc (hqs.trans (hs1.trans hs)), predictDirection_of_hit hqb hqd]
  cases b <;> rfl

/-- Settles O46: a hit is the push of the direction that the entry at the history index gives. -/
theorem gsharePredictPushesItsPrediction : Obligations.GsharePredictPushesItsPrediction := by
  unfold Obligations.GsharePredictPushesItsPrediction
  refine ⟨rfl, historyInt_cons, fun _ _ => rfl, testBit_xorInt, fun c p pc hc hs => ?_⟩
  rw [predict_gshare hc hs]
  refine ⟨predictGshare_of_miss, fun e b₀ bs hb hg => ?_⟩
  rw [predictGshare_of_hit hb]
  refine ⟨fun hfull => ?_, fun hlt => ⟨gshareTaken c p pc, gshareTaken_of_miss, fun x o hd ho => ?_, ?_⟩⟩
  · rw [pushPrediction_of_full hg hfull, andThen_fault]
  · rw [gshareTaken_of_hit hd, ho, Certainty.taken]
  · rw [pushPrediction_of_room hg hlt, andThen_next]

/-- Settles O47: one write of each table, which its lookup then finds, and the history settled by the OBQ's head. -/
theorem gshareUpdateSettlesTheHistory : Obligations.GshareUpdateSettlesTheHistory := by
  unfold Obligations.GshareUpdateSettlesTheHistory
  refine ⟨historyInt_eq_sum, testBit_xorInt, fun c p p' a d b hc hu => ?_⟩
  rw [update_gshare hc] at hu
  obtain ⟨btb, dir, hdir, hbtb, rfl⟩ := updateGshare_eq_next hu
  refine ⟨?_, hbtb.tableGet_written, settleHistory_stalled p _ b⟩
  rintro h rfl
  refine ⟨hdir.tableGet_written, fun ho => ?_, fun ho => ?_⟩
  · rw [settleHistory_of_confirmed b _ ho]
    exact ⟨rfl, rfl⟩
  · rw [settleHistory_of_not_confirmed b _ ho]
    exact ⟨rfl, rfl⟩

/-- Settles O41: the pass-through clears the flag that a stall has set, and an un-stalled predictor is its variant. -/
theorem stalledPredictPassesThroughOnce : Obligations.StalledPredictPassesThroughOnce := by
  unfold Obligations.StalledPredictPassesThroughOnce
  intro c p pc
  exact ⟨rfl, { p with stalled := false }, rfl, rfl, fun _ => predict_of_unstalled rfl⟩

end Sys2Proof.Machine
end

section
/-! The pipeline (O25, O26, O31 to O33, O57): Decode with and without room for a group, what each turn of a cycle answers
in the states the statements speak of, the addresses Fetch latches, and what halts the machine. -/

namespace Sys2Proof.Machine

/-! ### Frames -/

theorem SameRegs.of_gpr {s t : State} (h : t.gpr = s.gpr) : SameRegs s t :=
  ⟨congrArg RegFile.names h, fun g => congrArg (RegFile.get · g) h⟩

theorem SameCells.of_mem {s t : State} (h : t.mem = s.mem) : SameCells s t := fun a => congrArg (Memory.read · a) h

/-! ### Decode (R226 to R229) -/

theorem issue_of_cir {s : State} {f : Fetched} (hf : s.cir = some f) (g : List MicroOp) :
    issue g s =
      if hasRoom s g then insertGroup s (sint64 s.rip) f.speculative g else .next (s.setStallFetch true) := by
  unfold issue
  rw [hf]

/-- Settles O25: a group is never empty, so room in both buffers is room for all its inserts. -/
theorem issueInsertsTheWholeGroup : Obligations.IssueInsertsTheWholeGroup := by
  unfold Obligations.IssueInsertsTheWholeGroup
  intro i g s f hg hf hrob hpb
  have hne : g ≠ [] := List.ne_nil_of_length_pos (length_groupOf hg).1
  have hroom : hasRoom s g = true := hasRoom_iff.2 ⟨by omega, by omega⟩
  rw [exec_of_groupOf hg, issue_of_cir hf, if_pos hroom, insertGroup_of_room hne hroom]
  exact ⟨_, rfl, rfl, rfl, rfl, rfl, .of_gpr rfl, rfl, .of_mem rfl, ⟨rfl, rfl, rfl⟩, rfl, rfl, rfl, rfl, rfl, rfl, rfl,
    rfl, rfl, rfl, rfl, rfl⟩

/-- Settles O26: a group longer than the free slots of either buffer has no room. -/
theorem issueWithoutRoomStallsFetchOnly : Obligations.IssueWithoutRoomStallsFetchOnly := by
  unfold Obligations.IssueWithoutRoomStallsFetchOnly
  intro i g s f hg hf hshort
  have hroom : ¬hasRoom s g = true := fun h => by
    obtain ⟨hrob, hpb⟩ := hasRoom_iff.1 h
    omega
  rw [exec_of_groupOf hg, issue_of_cir hf, if_neg hroom]
  exact ⟨_, rfl, rfl, rfl, rfl, rfl, rfl, rfl, rfl, .of_gpr rfl, rfl, .of_mem rfl, ⟨rfl, rfl, rfl⟩, rfl,
    ⟨rfl, rfl, rfl, rfl, rfl, rfl, rfl, rfl⟩⟩

/-! ### The turns of a cycle (R221, R222) -/

theorem step_of_running {s : State} (h : s.running = true) : step s = cycle s := if_pos h

theorem executeTurn_of_stalled {s : State} (h : s.stall.execute = true) : executeTurn s = .next s := if_pos h

theorem executeTurn_of_unstalled {s : State} (h : s.stall.execute = false) : executeTurn s = executeStage s :=
  if_neg (by rw [h]; decide)

theorem decodeTurn_of_stalled {s : State} (h : s.stall.decode = true) : decodeTurn s = .next s := if_pos h

theorem decodeTurn_of_unstalled {s : State} (h : s.stall.decode = false) : decodeTurn s = decodeStage s :=
  if_neg (by rw [h]; decide)

theorem fetchTurn_of_stalled {s : State} (h : s.stall.fetch = true) : fetchTurn s = .next (s.setStallFetch false) :=
  if_pos h

/-- With something in flight Execute dispatches the head micro-op and removes both heads (R260). -/
theorem executeStage_of_cons {s : State} {u : MicroOp} {us : List MicroOp} {r : RobEntry} {rs : List RobEntry}
    (hpb : s.pb = u :: us) (hrob : s.rob = r :: rs) :
    executeStage s = andThen (exec u.toInstr (s.traceExecuted u)) fun t => .next t.popHeads := by
  have hne : s.pb ≠ [] := by rw [hpb]; exact List.cons_ne_nil u us
  rw [executeStage, if_neg hne, circGet_eq_next.2 (by rw [hpb]; rfl), andThen_next,
    circGet_eq_next.2 (by rw [hrob]; rfl), andThen_next]

/-- With an instruction in `cir` that decodes, Decode runs it (R226). -/
theorem decodeStage_of_ok {s : State} {f : Fetched} {i : Instr} (hf : s.cir = some f)
    (hi : decode s.config.gprNames f.token = .ok i) : decodeStage s = exec i s := by
  unfold decodeStage
  simp only [hf, hi]

/-- Settles O31: each turn answers what its stall flag and the buffers' heads say. -/
theorem stepRunsTheDecodedInstruction : Obligations.StepRunsTheDecodedInstruction := by
  unfold Obligations.StepRunsTheDecodedInstruction
  refine ⟨fun s f i hrun hexe hdec hf hi _ => ?_, fun s u us r rs hrun hexe hpb hrob => ?_⟩
  · rw [step_of_running hrun, cycle, executeTurn_of_stalled (s := s.tick) hexe, andThen_next,
      decodeTurn_of_unstalled (s := s.tick) hdec, decodeStage_of_ok (s := s.tick) hf hi]
  · rw [step_of_running hrun, cycle, executeTurn_of_unstalled (s := s.tick) hexe,
      executeStage_of_cons (s := s.tick) hpb hrob, andThen_assoc]
    rfl

/-! ### Fetch (R223 to R225) -/

theorem ripb_eq (s : State) : s.ripb = (s.rip.toNat % 256 : Nat) :=
  congrArg Nat.cast (BitVec.toNat_setWidth 8 s.rip)

theorem readToken_of_out_of_range {s : State} {a : Int} (h : ¬s.inRange a = true) :
    readToken s a = .fault (.memoryOutOfRange a) := by
  rw [readToken, readWritten, memRead, if_neg h, andThen_fault, andThen_fault]

theorem readToken_of_number {s : State} {a v : Int} (hr : s.inRange a = true)
    (hc : s.mem.read a.toNat = some (.number v)) : readToken s a = .fault (.fetchNonToken a) := by
  rw [readToken, readWritten_eq_next.2 ⟨hr, hc⟩, andThen_next]

theorem readToken_of_unwritten {s : State} {a : Int} (hr : s.inRange a = true) (hc : s.mem.read a.toNat = none) :
    readToken s a = .refused (.unwrittenCellRead a) := by
  rw [readToken, readWritten, memRead_eq_next.2 ⟨hr, hc⟩, andThen_next, andThen_refused]

/-- At and beyond dataStart the token is synthesized (R225). -/
theorem fetchToken_of_data {s : State} {n : Int} (h : s.ds ≤ n) : fetchToken s n = .next noopToken := if_pos h

theorem fetchToken_of_text {s : State} {n : Int} (h : n < s.ds) : fetchToken s n = readToken s n :=
  if_neg (not_le.2 h)

/-- The addresses that have a token, and which it is (R223, R225). -/
theorem fetchToken_of_present {s : State} {n : Int} {tok : Token}
    (h : (s.ds ≤ n ∧ tok = "noop".toList) ∨
      (n < s.ds ∧ 0 ≤ n ∧ n < s.config.memSize ∧ s.mem.read n.toNat = some (.token tok))) :
    fetchToken s n = .next tok := by
  rcases h with ⟨hds, rfl⟩ | ⟨hds, h0, hsize, hread⟩
  · rw [fetchToken_of_data hds]
    rfl
  · rw [fetchToken_of_text hds, readToken_eq_next]
    exact ⟨inRange_iff.2 ⟨h0, hsize⟩, hread⟩

/-- After a prediction Fetch reads the token at the predicted address and latches it (R223). -/
theorem fetchStage_of_predict {s : State} {n : Int} {p : PredictorState}
    (h : predict s.config s.predictor s.ripb = .next (n, p)) :
    fetchStage s = andThen (fetchToken s n) fun tok => .next (latchFetch (s.setPredictor p) s.ripb n tok) := by
  rw [fetchStage, h, andThen_next]

theorem fetchStage_stopsAlike_predict (s : State) :
    StopsAlike (predict s.config s.predictor s.ripb) (fetchStage s) :=
  ⟨fun _ h => andThen_eq_fault.2 (.inl h), fun _ h => andThen_eq_refused.2 (.inl h)⟩

/-- Settles O32: past the prediction Fetch does what the read of the token at the address does. -/
theorem fetchLatchesThePredictedAddress : Obligations.FetchLatchesThePredictedAddress := by
  unfold Obligations.FetchLatchesThePredictedAddress
  refine fun s => ⟨fetchStage_stopsAlike_predict s, fun n p hp => ?_⟩
  rw [fetchStage_of_predict hp]
  refine ⟨fun tok htok => ?_, fun hds hout => ?_, fun ⟨hds, h0, hsize⟩ => ?_⟩
  · rw [fetchToken_of_present htok, ← ripb_eq]
    exact ⟨_, rfl, rfl, rfl, rfl, rfl, rfl, rfl, rfl, .of_gpr rfl, rfl, .of_mem rfl, ⟨rfl, rfl, rfl⟩, rfl, rfl, rfl, rfl,
      rfl, rfl, rfl, rfl, rfl⟩
  · have hr : ¬s.inRange n = true := fun h => by
      have hin := inRange_iff.1 h
      omega
    rw [fetchToken_of_text hds, readToken_of_out_of_range hr, andThen_fault]
  · have hr : s.inRange n = true := inRange_iff.2 ⟨h0, hsize⟩
    rw [fetchToken_of_text hds]
    refine ⟨fun v hv => ?_, fun hnone => ?_⟩
    · rw [readToken_of_number hr hv, andThen_fault]
    · rw [readToken_of_unwritten hr hnone, andThen_refused]

/-! ### A misprediction (R230, R234, R267) -/

theorem stallAfter_of_mismatch {c : Config} {met succ : Bool} (h : met ≠ succ) (p : PredictorState) :
    stallAfter c met succ p = p.stall := if_pos (.inl h)

/-- A JMP whose successor is tagged otherwise redirects, and leaves the predictor stalled (R267). -/
theorem MicroEffect.of_mismatch {c : Cond} {w : Width} {s t : State} {r x : RobEntry} {rs : List RobEntry}
    (h : MicroEffect (.jmp c w) s t) (hrob : s.rob = r :: x :: rs) (hm : condHolds c s.flags ≠ x.speculative) :
    ∃ p : PredictorState,
      t = (s.redirect (branchTarget r.issuing (sint64 s.accWord) (condHolds c s.flags))).setPredictor p.stall := by
  cases h with
  | jmpMatch hr hx hm' hp =>
    rw [hrob] at hx
    cases hx
    exact absurd hm' hm
  | @jmpMismatch _ _ _ _ _ p hr hx hm' hp =>
    rw [hrob] at hr hx
    cases hr
    cases hx
    exact ⟨p, by rw [stallAfter_of_mismatch hm]⟩

theorem toWord_branchTarget (loc : Int) (w : Word) (met : Bool) :
    toWord (branchTarget loc (sint64 w) met) = if met then w else toWord (loc + 1) := by
  cases met with
  | true => exact BitVec.ofInt_toInt
  | false => rfl

/-- Settles O33: the Flush leaves Decode and Fetch stalled, so their turns do nothing but clear Fetch's flag. -/
theorem mispredictionCostsTheRestOfTheCycle : Obligations.MispredictionCostsTheRestOfTheCycle := by
  unfold Obligations.MispredictionCostsTheRestOfTheCycle
  intro s t c w us r x rs hrun hflush hexe hpb hrob hm h
  rw [step_of_running hrun] at h
  obtain ⟨s1, s2, h1, h2, h3⟩ := cycle_eq_next h
  rcases executeTurn_eq_next h1 with ⟨hidle, _⟩ | ⟨_, u, _, t', hu, he, rfl⟩
  · simp [hexe, hpb] at hidle
  · obtain ⟨rfl, -⟩ := List.cons.inj (hpb.symm.trans hu)
    obtain ⟨p, rfl⟩ := he.of_mismatch hrob hm
    rw [decodeTurn_of_stalled rfl] at h2
    cases h2
    rw [fetchTurn_of_stalled (by simp [hflush])] at h3
    cases h3
    exact ⟨rfl, rfl, rfl, rfl, toWord_branchTarget r.issuing s.accWord _, rfl⟩

/-! ### Halting (R231, R271) -/

/-- A micro-op leaves `running` as it is, or is a SYSCALL with 60 in the accumulator's low byte (R271). -/
theorem MicroEffect.running {u : MicroOp} {s t : State} (h : MicroEffect u s t) :
    t.running = s.running ∨ ∃ w, u = .syscall w ∧ s.syscallNumber = 60 := by
  cases h with
  | halt hn => exact .inr ⟨_, rfl, hn⟩
  | load | stoReg | stoMem | add | sub | cmp | jmpMatch | jmpMismatch | write | noop => exact .inl rfl

theorem syscallNumber_eq (s : State) : s.syscallNumber = s.accWord.toNat % 256 := BitVec.toNat_setWidth 8 s.accWord

/-- A step of a Running machine is Execute's turn in a new cycle followed by what Decode and Fetch write (R221). -/
theorem step_frame_of_running {s t : State} (hrun : s.running = true) (h : step s = .next t) :
    ∃ s1, executeTurn s.tick = .next s1 ∧ FrontEndFrame s1 t := by
  rw [step_of_running hrun] at h
  obtain ⟨s1, s2, h1, h2, h3⟩ := cycle_eq_next h
  exact ⟨s1, h1, (decodeTurn_frame h2).1.trans (fetchTurn_frame h3)⟩

/-- Execute's turn leaves `running` as it is, or executes a SYSCALL with 60 in the accumulator's low byte. -/
theorem executeTurn_running {s t : State} (h : executeTurn s = .next t) :
    t.running = s.running ∨
    (s.stall.execute = false ∧ (∃ w, s.pb.head? = some (.syscall w)) ∧ s.accWord.toNat % 256 = 60) := by
  rcases executeTurn_eq_next h with ⟨_, rfl⟩ | ⟨hx, u, us, t', hu, he, rfl⟩
  · exact .inl rfl
  · rcases he.running with hrun | ⟨w, rfl, hn⟩
    · exact .inl hrun
    · exact .inr ⟨hx, ⟨w, congrArg List.head? hu⟩, (syscallNumber_eq _).symm.trans hn⟩

theorem executeTurn_cycle {s t : State} (h : executeTurn s = .next t) : t.cycle = s.cycle := by
  rcases executeTurn_eq_next h with ⟨_, rfl⟩ | ⟨_, u, us, t', _, he, rfl⟩
  · rfl
  · exact he.results.1

/-- Settles O57: of the three turns only Execute's writes `running`, and none writes the count that `tick` has raised. -/
theorem onlySyscallSixtyHalts : Obligations.OnlySyscallSixtyHalts := by
  unfold Obligations.OnlySyscallSixtyHalts
  intro s t h
  refine ⟨fun ⟨hrun, hhalt⟩ => ?_, fun hrun => ?_, fun hhalted => ?_⟩
  · obtain ⟨s1, h1, hf⟩ := step_frame_of_running hrun h
    rcases executeTurn_running h1 with hsame | hsys
    · have hstill : t.running = true := hf.running.trans (hsame.trans hrun)
      rw [hhalt] at hstill
      cases hstill
    · exact hsys
  · obtain ⟨s1, h1, hf⟩ := step_frame_of_running hrun h
    exact hf.cycle.trans (executeTurn_cycle h1)
  · rcases step_eq_next h with ⟨hrun, _⟩ | ⟨_, rfl⟩
    · rw [hhalted] at hrun
      cases hrun
    · rfl

end Sys2Proof.Machine
end

section
/-! The micro-ops (O13 to O20, O22 to O24): the value of an operand, what each data micro-op writes and leaves unchanged,
the conditions, the resolution of a branch, and SYSCALL. -/

namespace Sys2Proof.Machine

/-! ### Stops -/

section
variable {α β γ : Type}

/-- What runs on another operation's answer stops as that operation does (R338, R339). -/
theorem StopsAlike.andThen (x : Result α) (f : α → Result β) : StopsAlike x (andThen x f) :=
  ⟨fun _ h => andThen_eq_fault.2 (.inl h), fun _ h => andThen_eq_refused.2 (.inl h)⟩

theorem StopsAlike.trans {x : Result α} {y : Result β} {z : Result γ} (h : StopsAlike x y) (k : StopsAlike y z) :
    StopsAlike x z :=
  ⟨fun f hf => k.1 f (h.1 f hf), fun r hr => k.2 r (h.2 r hr)⟩

end

/-! ### Frames -/

/-- The registers, the flags and memory are all that is outside the core of a state. -/
theorem sameCore_of_data (s : State) (f : RegFile) (fl : Flags) (m : Memory) :
    SameCore s { s with gpr := f, flags := fl, mem := m } :=
  ⟨⟨rfl, rfl, rfl, rfl, rfl, rfl, rfl, rfl⟩, ⟨rfl, rfl, rfl, rfl, rfl, rfl, rfl⟩, ⟨rfl, rfl, rfl⟩, rfl⟩

/-- A register write changes that register only. -/
theorem setReg_frame (s : State) (g : Gpr) (w : Word) :
    SameRegsBut g s (s.setReg g w) ∧ (s.setReg g w).flags = s.flags ∧ SameCells s (s.setReg g w) ∧
      SameCore s (s.setReg g w) :=
  ⟨⟨State.names_setReg w, fun _ h => State.reg_setReg_other s w h⟩, rfl, .of_mem rfl, sameCore_of_data s _ _ _⟩

/-- A write of the accumulator changes that register only. -/
theorem setAcc_frame (s : State) (v : Int) :
    SameRegsBut s.config.acc s (s.setAcc v) ∧ (s.setAcc v).flags = s.flags ∧ SameCells s (s.setAcc v) ∧
      SameCore s (s.setAcc v) :=
  setReg_frame s s.config.acc (toWord v)

/-! ### Memory reads that stop (R61, R69, R70) -/

theorem not_inRange {s : State} {a : Int} (h : a < 0 ∨ (s.config.memSize : Int) ≤ a) : ¬s.inRange a = true := by
  intro hr
  have hin := inRange_iff.1 hr
  omega

theorem readWritten_of_out_of_range {s : State} {a : Int} (h : ¬s.inRange a = true) :
    readWritten s a = .fault (.memoryOutOfRange a) := by
  rw [readWritten, memRead, if_neg h, andThen_fault]

theorem readWritten_of_unwritten {s : State} {a : Int} (hr : s.inRange a = true) (hc : s.mem.read a.toNat = none) :
    readWritten s a = .refused (.unwrittenCellRead a) := by
  rw [readWritten, memRead_eq_next.2 ⟨hr, hc⟩, andThen_next]

theorem readNumber_of_out_of_range {s : State} {a : Int} (h : ¬s.inRange a = true) :
    readNumber s a = .fault (.memoryOutOfRange a) := by
  rw [readNumber, readWritten_of_out_of_range h, andThen_fault]

theorem readNumber_of_unwritten {s : State} {a : Int} (hr : s.inRange a = true) (hc : s.mem.read a.toNat = none) :
    readNumber s a = .refused (.unwrittenCellRead a) := by
  rw [readNumber, readWritten_of_unwritten hr hc, andThen_refused]

theorem readNumber_of_token {s : State} {a : Int} {t : Token} (hr : s.inRange a = true)
    (hc : s.mem.read a.toNat = some (.token t)) : readNumber s a = .fault (.loadNonNumber a) := by
  rw [readNumber, readWritten_eq_next.2 ⟨hr, hc⟩, andThen_next]

/-! ### The value of an operand (R261) -/

theorem operandVal_mem {s : State} {e : Token} {a : Int} (h : generate e s.gpr = .next a) :
    operandVal s (.mem e) = readNumber s a := by
  rw [operandVal, h, andThen_next]

/-- Settles O13: once its address is known, a Memory operand does what the read of that cell does. -/
theorem operandValueOfEveryForm : Obligations.OperandValueOfEveryForm := by
  unfold Obligations.OperandValueOfEveryForm
  intro s
  refine ⟨fun _ => rfl, fun _ => rfl, fun e a ha => ?_, fun e => (StopsAlike.andThen (generate e s.gpr) _).1⟩
  rw [operandVal_mem ha]
  refine ⟨fun hout => readNumber_of_out_of_range (not_inRange hout), fun hin => ?_⟩
  have hr : s.inRange a = true := inRange_iff.2 hin
  exact ⟨readNumber_of_unwritten hr, fun _ => readNumber_of_token hr, fun _ hv => readNumber_eq_next.2 ⟨hr, hv⟩⟩

/-! ### The data micro-ops (R262 to R266, R273) -/

section
variable (s : State) (a : Operand) (w : Width)

theorem exec_microLoad : exec (.microLoad a w) s = andThen (operandVal s a) fun v => .next (s.setAcc v) := rfl

theorem exec_microAdd :
    exec (.microAdd a w) s = andThen (operandVal s a) fun v => .next (s.setAcc (sint64 s.accWord + v)) := rfl

theorem exec_microSub :
    exec (.microSub a w) s = andThen (operandVal s a) fun v => .next (s.setAcc (sint64 s.accWord + -v)) := rfl

theorem exec_microCmp :
    exec (.microCmp a w) s =
      andThen (operandVal s a) fun v => .next (s.setFlags (flagsOf s.config.parity (sint64 s.accWord - v))) := rfl

theorem exec_microSto (d : Dest) : exec (.microSto d w) s = storeDest s (readView w s.accWord) d := rfl

theorem exec_microNoop : exec (.microNoop w) s = .next s := rfl

end

/-- Settles O14: LOAD writes the accumulator where its operand has a value. -/
theorem loadReplacesTheAccumulator : Obligations.LoadReplacesTheAccumulator := by
  unfold Obligations.LoadReplacesTheAccumulator
  intro s a w
  rw [exec_microLoad]
  refine ⟨.andThen _ _, fun v hv => ?_⟩
  rw [hv, andThen_next]
  exact ⟨_, rfl, State.accWord_setAcc s v, setAcc_frame s v⟩

theorem storeDest_mem {s : State} {e : Token} {a : Int} (h : generate e s.gpr = .next a) (v : Int) :
    storeDest s v (.mem e) = memWrite s a (.number v) := by
  rw [storeDest, h, andThen_next]

/-- Settles O15: a store is the write of a register, or that of a cell in range. -/
theorem storeWritesItsDestination : Obligations.StoreWritesItsDestination := by
  unfold Obligations.StoreWritesItsDestination
  refine ⟨fun s r w => ?_, fun s e w a ha => ?_, fun s e w => ?_⟩
  · exact ⟨_, exec_microSto s w (.reg r), State.reg_setReg_same s r.reg _, setReg_frame s r.reg _⟩
  · rw [exec_microSto, storeDest_mem ha]
    refine ⟨fun hin => ?_, fun hout => if_neg (not_inRange hout)⟩
    exact ⟨_, if_pos (inRange_iff.2 hin), Memory.read_write_same _ _ _, fun _ hb => Memory.read_write_other _ _ hb,
      .of_gpr rfl, rfl, sameCore_of_data s _ _ _⟩
  · rw [exec_microSto]
    exact (StopsAlike.andThen (generate e s.gpr) _).1

theorem toWord_sint64_add (x : Word) (v : Int) : toWord (sint64 x + v) = x + toWord v := by
  rw [toWord, sint64, BitVec.ofInt_add, BitVec.ofInt_toInt, ← toWord]

theorem toWord_sint64_add_neg (x : Word) (v : Int) : toWord (sint64 x + -v) = x - toWord v := by
  rw [toWord_sint64_add, toWord, BitVec.ofInt_neg, ← toWord, ← sub_eq_add_neg]

/-- Settles O16: the integer sum wraps to the sum of the words. -/
theorem addAndSubWrapAndSetNoFlag : Obligations.AddAndSubWrapAndSetNoFlag := by
  unfold Obligations.AddAndSubWrapAndSetNoFlag
  intro s a w
  rw [exec_microAdd, exec_microSub]
  refine ⟨.andThen _ _, .andThen _ _, fun v hv => ?_⟩
  rw [hv, andThen_next, andThen_next]
  exact ⟨⟨_, rfl, State.accWord_setAcc s _, (State.accWord_setAcc s _).trans (toWord_sint64_add _ v), setAcc_frame s _⟩,
    ⟨_, rfl, State.accWord_setAcc s _, (State.accWord_setAcc s _).trans (toWord_sint64_add_neg _ v), setAcc_frame s _⟩⟩

/-- The binary digits of a number of `k` bits sum to the number of its 1 bits. -/
theorem countP_testBit_range {k n : Nat} (h : n < 2 ^ k) :
    (List.range k).countP (fun i => n.testBit i) = (Nat.digits 2 n).sum := by
  induction k generalizing n with
  | zero =>
    obtain rfl : n = 0 := by simpa using h
    rfl
  | succ k ih =>
    have hhalf : n / 2 < 2 ^ k := by omega
    have hdigits : (Nat.digits 2 n).sum = n % 2 + (Nat.digits 2 (n / 2)).sum := by
      rcases Nat.eq_zero_or_pos n with rfl | hpos
      · rfl
      · rw [Nat.digits_def' (by decide) hpos, List.sum_cons]
    rw [List.range_succ_eq_map, List.countP_cons, List.countP_map, hdigits, ← ih hhalf, Nat.add_comm]
    congr 1
    · rcases Nat.mod_two_eq_zero_or_one n with hn | hn <;> simp [Nat.testBit_zero, hn]
    · exact List.countP_congr fun i _ => by simp [Nat.testBit_succ]

/-- The default `PARITY` is that of the sum of the low 8 bits (R266). -/
theorem parityOf_evenLow8 (d : Int) :
    parityOf .evenLow8 d = decide ((Nat.digits 2 (d % 256).toNat).sum % 2 = 0) := by
  have hbyte : (d % 256).toNat < 2 ^ 8 := by omega
  rw [parityOf, evenParityLow8, countP_testBit_range hbyte, beq_eq_decide]

/-- Settles O17: CMP writes the flags as a whole, and nothing besides. -/
theorem cmpSetsTheFlagsOfTheExactDifference : Obligations.CmpSetsTheFlagsOfTheExactDifference := by
  unfold Obligations.CmpSetsTheFlagsOfTheExactDifference
  refine ⟨fun s a w => ?_, parityOf_evenLow8⟩
  rw [exec_microCmp]
  refine ⟨.andThen _ _, fun v hv => ?_⟩
  rw [hv, andThen_next]
  exact ⟨_, rfl, rfl, rfl, rfl, .of_gpr rfl, .of_mem rfl, sameCore_of_data s _ _ _⟩

/-- Settles O18: NOOP answers the state it was given. -/
theorem noopHasNoEffect : Obligations.NoopHasNoEffect := by
  unfold Obligations.NoopHasNoEffect
  exact fun s w => ⟨s, exec_microNoop s w, .of_gpr rfl, rfl, .of_mem rfl, sameCore_of_data s _ _ _⟩

/-! ### The conditions (R268) -/

/-- The sign and the zero of the difference `b - a` are the order and the equality of `a` and `b` (R268). -/
theorem flagsOf_sub (p : ParityFn) (a b : Int) :
    (flagsOf p (b - a)).sf = decide (a > b) ∧ (flagsOf p (b - a)).zf = decide (a = b) :=
  ⟨decide_eq_decide.2 (by omega), decide_eq_decide.2 (by omega)⟩

/-- Settles O19: each condition is a Boolean combination of the order and the equality. -/
theorem conditionsCompareTheOperands : Obligations.ConditionsCompareTheOperands := by
  unfold Obligations.ConditionsCompareTheOperands
  refine ⟨fun f => ⟨rfl, rfl, rfl, rfl, rfl, rfl, rfl⟩, fun p a b => ?_⟩
  obtain ⟨hsf, hzf⟩ := flagsOf_sub p a b
  simp only [condHolds, hsf, hzf, ← decide_not, ← Bool.decide_or, decide_eq_decide]
  refine ⟨trivial, trivial, trivial, ?_, ?_, ?_⟩ <;> omega

/-! ### JMP (R267) -/

/-- With no entry behind the reorder head there is no successor, and JMP is refused (R123, R267). -/
theorem exec_microJmp_of_short {s : State} (c : Cond) (w : Width) (h : s.rob.length < 2) :
    exec (.microJmp c w) s = .refused .staleSlotRead := by
  have harm : exec (.microJmp c w) s = execMicroJmp c w s := rfl
  rw [harm, execMicroJmp]
  match hrob : s.rob with
  | [] => rfl
  | [_] => rfl
  | _ :: _ :: _ =>
    rw [hrob, List.length_cons, List.length_cons] at h
    omega

theorem settleBranch_of_match {s : State} {loc dest : Int} {met succ : Bool} (h : met = succ) :
    settleBranch s loc dest met succ = s.recordPredicted := if_pos h

theorem settleBranch_of_mismatch {s : State} {loc dest : Int} {met succ : Bool} (h : met ≠ succ) :
    settleBranch s loc dest met succ = s.redirect (branchTarget loc dest met) := if_neg h

theorem stallAfter_of_match {c : Config} {met succ : Bool} (h : met = succ) (p : PredictorState) :
    stallAfter c met succ p = if c.stallAfterMatch then p.stall else p := by
  simp [stallAfter, h]

/-- Settles O20: past its update a JMP records the cycle, and on a mismatch redirects besides. -/
theorem jmpResolvesTheBranch : Obligations.JmpResolvesTheBranch := by
  unfold Obligations.JmpResolvesTheBranch
  refine fun s c w => ⟨exec_microJmp_of_short c w, fun r x rs hrob => ?_⟩
  rw [exec_microJmp_of_rob hrob]
  refine ⟨.andThen _ _, fun p hp => ?_⟩
  rw [resolveBranch, hp, andThen_next]
  by_cases hm : condHolds c s.flags = x.speculative
  · rw [settleBranch_of_match hm]
    exact ⟨_, rfl, rfl, ⟨rfl, rfl, rfl, rfl, rfl, rfl, rfl, rfl⟩, .of_gpr rfl, rfl, .of_mem rfl,
      fun _ => ⟨rfl, rfl, ⟨rfl, rfl, rfl, rfl, rfl, rfl, rfl⟩, stallAfter_of_match hm p⟩, absurd hm⟩
  · rw [settleBranch_of_mismatch hm]
    exact ⟨_, rfl, rfl, ⟨rfl, rfl, rfl, rfl, rfl, rfl, rfl, rfl⟩, .of_gpr rfl, rfl, .of_mem rfl, fun h => absurd h hm,
      fun _ => ⟨rfl, rfl, ⟨rfl, rfl, rfl, rfl, rfl, rfl, rfl, rfl⟩, toWord_branchTarget r.issuing s.accWord _,
        stallAfter_of_mismatch hm p⟩⟩

/-! ### SYSCALL (R269 to R272) -/

theorem exec_microSyscall_of_one {s : State} (w : Width) (h : s.accWord.toNat % 256 = 1) :
    exec (.microSyscall w) s = syscallWrite s := if_pos ((syscallNumber_eq s).trans h)

theorem exec_microSyscall_of_sixty {s : State} (w : Width) (h : s.accWord.toNat % 256 = 60) :
    exec (.microSyscall w) s = .next s.halt := by
  have harm : exec (.microSyscall w) s = execMicroSyscall w s := rfl
  rw [harm, execMicroSyscall, syscallNumber_eq, h]
  rfl

theorem exec_microSyscall_of_other {s : State} (w : Width) (h1 : s.accWord.toNat % 256 ≠ 1)
    (h60 : s.accWord.toNat % 256 ≠ 60) :
    exec (.microSyscall w) s = .refused (.unknownSyscall (s.accWord.toNat % 256)) := by
  have harm : exec (.microSyscall w) s = execMicroSyscall w s := rfl
  rw [harm, execMicroSyscall, syscallNumber_eq, if_neg h1, if_neg h60]

/-- Cells that can all be read are read in order; the converse is `readCells_eq_next`. -/
theorem readCells_of_readWritten {s : State} {a : Int} {cs : List Content}
    (h : ∀ i (hi : i < cs.length), readWritten s (a + i) = .next cs[i]) : readCells s cs.length a = .next cs := by
  induction cs generalizing a with
  | nil => rfl
  | cons c cs ih =>
    have hhead : readWritten s a = .next c := by simpa using h 0 (Nat.succ_pos _)
    have htail : readCells s cs.length (a + 1) = .next cs := ih fun i hi => by
      rw [add_assoc, add_comm 1 (i : Int)]
      exact h (i + 1) (Nat.succ_lt_succ hi)
    rw [List.length_cons, readCells, hhead, andThen_next, htail, andThen_next]

/-- A run of cells stops as its first cell does that stops. -/
theorem readCells_stopsAlike {s : State} {a : Int} {n k : Nat} (hk : k < n)
    (h : ∀ i : Nat, i < k → ∃ c, readWritten s (a + i) = .next c) :
    StopsAlike (readWritten s (a + k)) (readCells s n a) := by
  induction k generalizing a n with
  | zero =>
    obtain ⟨m, rfl⟩ := Nat.exists_eq_add_one_of_ne_zero hk.ne'
    rw [Int.natCast_zero, add_zero]
    exact .andThen _ _
  | succ k ih =>
    obtain ⟨m, rfl⟩ := Nat.exists_eq_add_one_of_ne_zero (Nat.ne_zero_of_lt hk)
    obtain ⟨c, hc⟩ := h 0 (Nat.succ_pos k)
    rw [Int.natCast_zero, add_zero] at hc
    have hshift : ∀ i : Nat, a + (i + 1 : Nat) = a + 1 + i := fun i => by omega
    have hrest : StopsAlike (readWritten s (a + 1 + k)) (readCells s m (a + 1)) :=
      ih (Nat.lt_of_succ_lt_succ hk) fun i hi => hshift i ▸ h (i + 1) (Nat.succ_lt_succ hi)
    rw [hshift, readCells, hc, andThen_next]
    exact hrest.trans (.andThen _ _)

/-- Settles O22: SYSCALL 1 does what the read of its run of cells does, which stops as the first bad cell does. -/
theorem syscallOneWritesCells : Obligations.SyscallOneWritesCells := by
  unfold Obligations.SyscallOneWritesCells
  intro s w buf len hone hbuf hlen
  rw [exec_microSyscall_of_one w hone, syscallWrite, ← hbuf, ← hlen]
  refine ⟨fun cs hcs hcells => ?_, fun k hk hgood => ?_⟩
  · have hread : readCells s len buf = .next cs := hcs ▸ readCells_of_readWritten fun i hi => by
      obtain ⟨h0, hsize, hc⟩ := hcells i hi
      exact readWritten_eq_next.2 ⟨inRange_iff.2 ⟨h0, hsize⟩, hc⟩
    rw [hread, andThen_next]
    exact ⟨_, rfl, rfl, rfl, rfl, .of_gpr rfl, rfl, .of_mem rfl, ⟨rfl, rfl, rfl, rfl, rfl, rfl, rfl, rfl⟩,
      ⟨rfl, rfl, rfl, rfl, rfl, rfl, rfl⟩, rfl⟩
  · have hstop := (readCells_stopsAlike hk fun i hi => by
      obtain ⟨h0, hsize, hc⟩ := hgood i hi
      obtain ⟨c, hc⟩ := Option.ne_none_iff_exists'.1 hc
      exact ⟨c, readWritten_eq_next.2 ⟨inRange_iff.2 ⟨h0, hsize⟩, hc⟩⟩).trans
        (.andThen (readCells s len buf) fun cs => .next (s.emit cs))
    obtain ⟨hfault, hrefused⟩ := hstop
    exact ⟨fun hout => hfault _ (readWritten_of_out_of_range (not_inRange hout)),
      fun ⟨h0, hsize, hc⟩ => hrefused _ (readWritten_of_unwritten (inRange_iff.2 ⟨h0, hsize⟩) hc)⟩

/-- Settles O23: the Flush of a halt, with `running` cleared. -/
theorem syscallSixtyHalts : Obligations.SyscallSixtyHalts := by
  unfold Obligations.SyscallSixtyHalts
  intro s w h
  rw [exec_microSyscall_of_sixty w h]
  exact ⟨_, rfl, rfl, ⟨rfl, rfl, rfl, rfl, rfl, rfl, rfl, rfl⟩, rfl, .of_gpr rfl, rfl, .of_mem rfl, rfl, ⟨rfl, rfl, rfl⟩,
    rfl, rfl, rfl, rfl, rfl, rfl, rfl⟩

/-- Settles O24: neither of the two tests of the number holds. -/
theorem syscallOtherNumbersAreRefused : Obligations.SyscallOtherNumbersAreRefused := by
  unfold Obligations.SyscallOtherNumbersAreRefused
  exact fun s w h1 h60 => exec_microSyscall_of_other w h1 h60

end Sys2Proof.Machine
end

section
/-! The net effect of the groups (O27 to O30): a group of data micro-ops has the effect of its micro-ops run one after the
other on what is outside the buffers, and only the buffers and Execute's trace register change besides. -/

namespace Sys2Proof.Machine

/-! ### What is in flight -/

/-- The state with other items in the two buffers and another trace of Execute: what executing a group changes beside what
its micro-ops write. -/
def State.withFlight (s : State) (pb : List MicroOp) (rob : List RobEntry) (last : Option MicroOp) : State :=
  { s with pb := pb, rob := rob, lastExecuted := last }

section
variable (s : State) (pb : List MicroOp) (rob : List RobEntry) (last : Option MicroOp)

theorem operandVal_withFlight (o : Operand) : operandVal (s.withFlight pb rob last) o = operandVal s o := by
  cases o <;> rfl

theorem memWrite_withFlight (a : Int) (c : Content) :
    memWrite (s.withFlight pb rob last) a c =
      andThen (memWrite s a c) fun t => .next (t.withFlight pb rob last) := by
  have hrange : (s.withFlight pb rob last).inRange a = s.inRange a := rfl
  rw [memWrite, memWrite, hrange]
  by_cases hr : s.inRange a = true
  · rw [if_pos hr, if_pos hr, andThen_next]
    rfl
  · rw [if_neg hr, if_neg hr, andThen_fault]

theorem storeDest_withFlight (v : Int) (d : Dest) :
    storeDest (s.withFlight pb rob last) v d =
      andThen (storeDest s v d) fun t => .next (t.withFlight pb rob last) := by
  cases d with
  | reg r => rfl
  | mem e =>
    rw [storeDest, storeDest, andThen_assoc]
    exact congrArg (andThen (generate e s.gpr)) (funext fun a => memWrite_withFlight s pb rob last a (.number v))

end

/-! ### The data micro-ops (R262 to R266, R273) -/

/-- The micro-op is neither a JMP nor a SYSCALL: it reads and writes registers, flags and memory only. -/
def isDataOp : MicroOp → Bool
  | .load _ _ => true
  | .sto _ _ => true
  | .add _ _ => true
  | .sub _ _ => true
  | .cmp _ _ => true
  | .jmp _ _ => false
  | .syscall _ => false
  | .noop _ => true

/-- A data micro-op writes nothing outside the registers, the flags and memory. -/
theorem MicroEffect.data_only {u : MicroOp} {s t : State} (h : MicroEffect u s t) (hu : isDataOp u = true) :
    ∃ f fl m, t = { s with gpr := f, flags := fl, mem := m } := by
  cases h with
  | jmpMatch | jmpMismatch | write | halt => cases hu
  | load | stoReg | stoMem | add | sub | cmp | noop => exact ⟨_, _, _, rfl⟩

/-- What a data micro-op does does not depend on what is in flight, and leaves it. -/
theorem exec_withFlight {u : MicroOp} (hu : isDataOp u = true) (s : State) (pb : List MicroOp) (rob : List RobEntry)
    (last : Option MicroOp) :
    exec u.toInstr (s.withFlight pb rob last) =
      andThen (exec u.toInstr s) fun t => .next (t.withFlight pb rob last) := by
  have hval := operandVal_withFlight s pb rob last
  cases u with
  | load a w => rw [MicroOp.toInstr, exec_microLoad, exec_microLoad, hval, andThen_assoc]; rfl
  | add a w => rw [MicroOp.toInstr, exec_microAdd, exec_microAdd, hval, andThen_assoc]; rfl
  | sub a w => rw [MicroOp.toInstr, exec_microSub, exec_microSub, hval, andThen_assoc]; rfl
  | cmp a w => rw [MicroOp.toInstr, exec_microCmp, exec_microCmp, hval, andThen_assoc]; rfl
  | sto d w => exact storeDest_withFlight s pb rob last (readView w s.accWord) d
  | noop w => rfl
  | jmp c w => cases hu
  | syscall w => cases hu

/-- Execute on a data micro-op: its effect, with both heads removed and the trace written (R260). -/
theorem executeStage_withFlight {u : MicroOp} (hu : isDataOp u = true) (s : State) (us : List MicroOp) (r : RobEntry)
    (rs : List RobEntry) (last : Option MicroOp) :
    executeStage (s.withFlight (u :: us) (r :: rs) last) =
      andThen (exec u.toInstr s) fun t => .next (t.withFlight us rs (some u)) := by
  have htrace : (s.withFlight (u :: us) (r :: rs) last).traceExecuted u = s.withFlight (u :: us) (r :: rs) (some u) := rfl
  rw [executeStage_of_cons rfl rfl, htrace, exec_withFlight hu, andThen_assoc]
  rfl

/-! ### Groups of data micro-ops (R300) -/

/-- The dispatches of micro-ops one after the other, without the buffers they came from. -/
def execAll : List MicroOp → State → Result State
  | [], s => .next s
  | u :: us, s => andThen (exec u.toInstr s) (execAll us)

theorem execAll_data_only {g : List MicroOp} {s t : State} (hg : g.all isDataOp = true) (h : execAll g s = .next t) :
    ∃ f fl m, t = { s with gpr := f, flags := fl, mem := m } := by
  induction g generalizing s with
  | nil => cases h; exact ⟨_, _, _, rfl⟩
  | cons u us ih =>
    rw [List.all_cons, Bool.and_eq_true] at hg
    obtain ⟨hu, hus⟩ := hg
    obtain ⟨s1, h1, h⟩ := andThen_eq_next.1 h
    obtain ⟨_, _, _, rfl⟩ := (exec_microOp_effect h1).data_only hu
    obtain ⟨_, _, _, rfl⟩ := ih hus h
    exact ⟨_, _, _, rfl⟩

/-- Execute, once for each micro-op of a group of data micro-ops at the head of the buffers. -/
theorem executeN_withFlight {g : List MicroOp} (hg : g.all isDataOp = true) (s : State) (rest : List MicroOp)
    {rob : List RobEntry} (hrob : g.length ≤ rob.length) (last : Option MicroOp) :
    executeN g.length (s.withFlight (g ++ rest) rob last) =
      andThen (execAll g s) fun t => .next (t.withFlight rest (rob.drop g.length) (g.getLast?.or last)) := by
  induction g generalizing s rob last with
  | nil => rfl
  | cons u us ih =>
    rw [List.all_cons, Bool.and_eq_true] at hg
    obtain ⟨hu, hus⟩ := hg
    obtain ⟨r, rs, rfl⟩ := List.exists_cons_of_length_pos (Nat.lt_of_lt_of_le (Nat.succ_pos _) hrob)
    have hrs : us.length ≤ rs.length := Nat.le_of_succ_le_succ hrob
    have hlast : (u :: us).getLast?.or last = us.getLast?.or (some u) := by
      rw [List.getLast?_cons]
      cases us.getLast? <;> rfl
    rw [List.length_cons, executeN, List.cons_append, executeStage_withFlight hu, andThen_assoc, execAll, andThen_assoc,
      hlast]
    exact congrArg (andThen (exec u.toInstr s)) (funext fun s1 => ih hus s1 hrs (some u))

/-- A group of data micro-ops at the head retires with the effect of its micro-ops on registers, flags and memory. -/
theorem executeN_of_groupAtHead {s t : State} {g rest : List MicroOp} (hhead : GroupAtHead s g rest) (hne : g ≠ [])
    (hg : g.all isDataOp = true) (ht : execAll g s = .next t) :
    ∃ u, executeN g.length s = .next u ∧ u.config = t.config ∧ u.gpr = t.gpr ∧ u.flags = t.flags ∧ u.mem = t.mem ∧
      GroupRetired s u g rest := by
  obtain ⟨hpb, hlen⟩ := hhead
  have hrob : g.length ≤ s.rob.length := by rw [hlen, hpb, List.length_append]; exact Nat.le_add_right _ _
  have hs : s = s.withFlight (g ++ rest) s.rob s.lastExecuted := by rw [← hpb]; rfl
  have hlast : g.getLast?.or s.lastExecuted = g.getLast? := by rw [List.getLast?_eq_some_getLast hne]; rfl
  have hrun := executeN_withFlight hg s rest hrob s.lastExecuted
  rw [← hs, ht, andThen_next, hlast] at hrun
  obtain ⟨_, _, _, rfl⟩ := execAll_data_only hg ht
  exact ⟨_, hrun, rfl, rfl, rfl, rfl, rfl, rfl, rfl, rfl, rfl, rfl, rfl, rfl, rfl, rfl, rfl, rfl, rfl, rfl, rfl,
    ⟨rfl, rfl, rfl⟩, rfl⟩

/-! ### The groups that end in a store (R301, R309, R310) -/

theorem storeDest_flags {s t : State} {v : Int} {d : Dest} (h : storeDest s v d = .next t) : t.flags = s.flags := by
  rcases storeDest_eq_next h with ⟨_, _, rfl⟩ | ⟨_, _, _, _, _, rfl⟩ <;> rfl

/-- A group whose micro-ops come to a store of `x` with `v` in the accumulator leaves what that store leaves. -/
theorem executeN_of_store {s t : State} {g rest : List MicroOp} {v x : Int} {d : Dest} (hhead : GroupAtHead s g rest)
    (hne : g ≠ []) (hg : g.all isDataOp = true) (hexec : execAll g s = storeDest (s.setAcc v) x d)
    (ht : storeDest (s.setAcc v) x d = .next t) :
    ∃ u, executeN g.length s = .next u ∧ SameRegs t u ∧ SameCells t u ∧ u.flags = s.flags ∧
      GroupRetired s u g rest := by
  have hstore : t.flags = (s.setAcc v).flags := storeDest_flags ht
  obtain ⟨u, hrun, _, hgpr, hflags, hmem, hret⟩ := executeN_of_groupAtHead hhead hne hg (hexec.trans ht)
  exact ⟨u, hrun, .of_gpr hgpr, .of_mem hmem, hflags.trans hstore, hret⟩

/-- A group that begins with a LOAD goes on from the state with the operand's value in the accumulator (R262). -/
theorem execAll_load {s : State} {a : Operand} {v : Int} (h : operandVal s a = .next v) (w : Width)
    (us : List MicroOp) : execAll (.load a w :: us) s = execAll us (s.setAcc v) := by
  rw [execAll, MicroOp.toInstr, exec_microLoad, h, andThen_next, andThen_next]

theorem execAll_sto (s : State) (d : Dest) (w : Width) :
    execAll [.sto d w] s = storeDest s (readView w s.accWord) d := by
  rw [execAll, MicroOp.toInstr, exec_microSto]
  cases storeDest s (readView w s.accWord) d <;> rfl

/-- Settles O27: after the load the accumulator is the source's word, and STO stores its view. -/
theorem movLoadsThenStores : Obligations.MovLoadsThenStores := by
  unfold Obligations.MovLoadsThenStores
  intro s a b g rest v t hg hhead hv ht
  cases hg
  refine executeN_of_store hhead (List.cons_ne_nil _ _) rfl ?_ ht
  rw [execAll_load hv, execAll_sto, State.accWord_setAcc]

/-- A sum put in the accumulator in place of its first term: that the term had wrapped is not seen (R264). -/
theorem setAcc_setAcc_add (s : State) (v k : Int) :
    (s.setAcc v).setAcc (sint64 (s.setAcc v).accWord + k) = s.setAcc (v + k) := by
  have hword : toWord (sint64 (toWord v) + k) = toWord (v + k) := by
    rw [toWord_sint64_add, toWord, toWord, toWord, BitVec.ofInt_add]
  rw [State.accWord_setAcc, State.setAcc, State.setAcc_config, hword, State.setAcc, State.setReg, State.setReg_gpr,
    RegFile.set_set]
  rfl

/-- The groups of `inc` and `dec`: between the LOAD and the STO stands an op that adds 1 or -1 to the accumulator. -/
theorem groupOf_inc_or_dec {i : Instr} {k : Int} {a : Dest} {g : List MicroOp}
    (hi : (i, k) ∈ [(Instr.inc a, (1 : Int)), (Instr.dec a, -1)]) (hg : groupOf i = some g) :
    ∃ u, g = [.load a.toOperand (operandWidth [a.toOperand]), u, .sto a (operandWidth [a.toOperand])] ∧
      g.all isDataOp = true ∧ ∀ s : State, exec u.toInstr s = .next (s.setAcc (sint64 s.accWord + k)) := by
  simp only [List.mem_cons, Prod.mk.injEq, List.not_mem_nil, or_false] at hi
  obtain ⟨rfl, rfl⟩ | ⟨rfl, rfl⟩ := hi
  · cases hg
    exact ⟨_, rfl, rfl, fun _ => rfl⟩
  · cases hg
    exact ⟨_, rfl, rfl, fun _ => rfl⟩

/-- Settles O28: the middle op adds `k` to the operand's value in the accumulator, and STO stores the sum's view. -/
theorem incAndDecChangeByOne : Obligations.IncAndDecChangeByOne := by
  unfold Obligations.IncAndDecChangeByOne
  intro s i k a g rest v t hi hg hhead hv ht
  obtain ⟨u, rfl, hdata, hadd⟩ := groupOf_inc_or_dec hi hg
  refine executeN_of_store hhead (List.cons_ne_nil _ _) hdata ?_ ht
  rw [execAll_load hv, execAll, hadd, andThen_next, setAcc_setAcc_add, execAll_sto, State.accWord_setAcc]

/-! ### cmp (R311) -/

theorem execAll_cmp {s : State} {a : Operand} {v : Int} (h : operandVal s a = .next v) (w : Width) :
    execAll [.cmp a w] s = .next (s.setFlags (flagsOf s.config.parity (sint64 s.accWord - v))) := by
  rw [execAll, MicroOp.toInstr, exec_microCmp, h, andThen_next, andThen_next, execAll]

/-- Settles O29: LOAD writes the accumulator only and CMP the flags only, of the accumulator minus the first operand. -/
theorem cmpComparesSecondWithFirst : Obligations.CmpComparesSecondWithFirst := by
  unfold Obligations.CmpComparesSecondWithFirst
  intro s a b g rest vb va hg hhead hb ha
  cases hg
  have hexec := (execAll_load hb (operandWidth [a, b]) [.cmp a (operandWidth [a, b])]).trans (execAll_cmp ha _)
  rw [State.accWord_setAcc] at hexec
  obtain ⟨u, hrun, hconfig, hgpr, hflags, hmem, hret⟩ :=
    executeN_of_groupAtHead hhead (List.cons_ne_nil _ _) rfl hexec
  obtain ⟨⟨hnames, hothers⟩, _, hcells, _⟩ := setAcc_frame s vb
  have hreg : ∀ r, u.reg r = (s.setAcc vb).reg r := fun r => congrArg (RegFile.get · r) hgpr
  refine ⟨u, hrun, ?_, ⟨fun hacc => ?_, fun r hr => (hreg r).trans (hothers r hr)⟩, .of_mem hmem, hflags, hret⟩
  · rw [State.accWord, hconfig]
    exact (hreg _).trans (State.accWord_setAcc s vb)
  · rw [hgpr]
    exact hnames hacc

/-! ### The jumps (R302 to R308) -/

/-- The two micro-ops of a jump: the JMP is dispatched with the target in the accumulator and its own entry at the reorder
head, and then removed (R267, R302). -/
theorem executeN_jumpGroup {s : State} {c : Cond} {a : Operand} {v : Int} {rest : List MicroOp} {r0 r1 : RobEntry}
    {rs : List RobEntry} (hpb : s.pb = jumpGroup c a ++ rest) (hrob : s.rob = r0 :: r1 :: rs)
    (hv : operandVal s a = .next v) :
    executeN 2 s =
      andThen (exec (.microJmp c (operandWidth [a]))
        ((s.setAcc v).withFlight (.jmp c (operandWidth [a]) :: rest) (r1 :: rs) (some (.jmp c (operandWidth [a])))))
        fun t => .next t.popHeads := by
  have hs : s = s.withFlight (jumpGroup c a ++ rest) (r0 :: r1 :: rs) s.lastExecuted := by rw [← hpb, ← hrob]; rfl
  have hload : executeStage s = .next ((s.setAcc v).withFlight (.jmp c (operandWidth [a]) :: rest) (r1 :: rs)
      (some (.load a (operandWidth [a])))) := by
    rw [hs, jumpGroup, List.cons_append, executeStage_withFlight rfl, MicroOp.toInstr, exec_microLoad, hv, andThen_next,
      andThen_next]
    rfl
  rw [executeN, hload, andThen_next, executeN, executeStage_of_cons rfl rfl, andThen_assoc]
  rfl

/-- Settles O30: after the LOAD what is left is the JMP with its successor behind it, and O20 says what that does. -/
theorem jumpsResolveOnTheFlags : Obligations.JumpsResolveOnTheFlags := by
  unfold Obligations.JumpsResolveOnTheFlags
  intro s _ c a v r0 r1 x rs rest p _ _ hpb hrob hv hp
  rw [executeN_jumpGroup hpb hrob hv]
  generalize hj : (s.setAcc v).withFlight (.jmp c (operandWidth [a]) :: rest) (r1 :: x :: rs)
    (some (.jmp c (operandWidth [a]))) = sj
  have hacc : sj.accWord = toWord v := hj ▸ State.accWord_setAcc s v
  obtain ⟨_, hresolve⟩ := (jmpResolvesTheBranch sj c (operandWidth [a])).2 r1 x rs (hj ▸ rfl)
  obtain ⟨t, ht, hout, ⟨hconfig, _⟩, ⟨htnames, htregs⟩, hflags, hcells, hmatch, hmiss⟩ :=
    hresolve p (by rw [hacc, ← hj]; exact hp)
  subst hj
  obtain ⟨⟨hnames, hothers⟩, _, _, _⟩ := setAcc_frame s v
  rw [ht, andThen_next]
  refine ⟨_, rfl, ?_, ⟨fun h => htnames.trans (hnames h), fun g hg => (htregs g).trans (hothers g hg)⟩, hflags, hcells,
    hout, fun hm => ?_, fun hm => ?_⟩
  · calc t.popHeads.accWord = t.reg s.config.acc := congrArg (fun c : Config => t.reg c.acc) hconfig
      _ = _ := htregs _
      _ = toWord v := hacc
  · obtain ⟨hpred, hmis, ⟨hrip, _, _, _, _, hrobt, hpbt⟩, hpredictor⟩ := hmatch hm
    exact ⟨hpred, hmis, hrip, congrArg List.tail hpbt, congrArg List.tail hrobt, hpredictor⟩
  · obtain ⟨hmis, hpred, ⟨hrobt, hpbt, hflushed⟩, hrip, hpredictor⟩ := hmiss hm
    rw [hacc] at hrip
    exact ⟨hmis, hpred, hrip, ⟨congrArg List.tail hrobt, congrArg List.tail hpbt, hflushed⟩, hpredictor⟩

end Sys2Proof.Machine
end

section
/-! Effects and errors of a step (O54, O58): what a step with Execute stalled leaves as it is, and which operations can
raise the three errors of the storage primitives. -/

namespace Sys2Proof.Machine

/-! ### Effects only at Execute (R71, R340) -/

/-- What neither Decode nor Fetch writes is all the architectural state, with the tables of the predictor. -/
theorem FrontEndFrame.no_effect {s t : State} (h : FrontEndFrame s t) :
    SameRegs s t ∧ t.flags = s.flags ∧ SameCells s t ∧ SameResults s t ∧ t.running = s.running ∧
      t.predictor.btb = s.predictor.btb ∧ t.predictor.dir = s.predictor.dir :=
  ⟨.of_gpr h.gpr, h.flags, .of_mem h.mem, ⟨h.predicted, h.mispredicted, h.output⟩, h.running, h.btb, h.dir⟩

/-- With Execute stalled a step is none, or a new cycle and what Decode and Fetch write (R222). -/
theorem step_frame_of_stalled {s t : State} (hx : s.stall.execute = true) (h : step s = .next t) :
    t = s ∨ FrontEndFrame s.tick t := by
  rcases step_frame h with rfl | ⟨s1, h1, hf⟩
  · exact .inl rfl
  · rw [executeTurn_of_stalled (s := s.tick) hx] at h1
    cases h1
    exact .inr hf

/-- No micro-op writes a segment register (R37). -/
theorem MicroEffect.segments {u : MicroOp} {s t : State} (h : MicroEffect u s t) : t.cs = s.cs ∧ t.ds = s.ds := by
  cases h <;> exact ⟨rfl, rfl⟩

/-- No step changes a segment register (R37). -/
theorem step_segments {s t : State} (h : step s = .next t) : t.cs = s.cs ∧ t.ds = s.ds := by
  rcases step_frame h with rfl | ⟨s1, h1, hf⟩
  · exact ⟨rfl, rfl⟩
  · rw [hf.cs, hf.ds]
    rcases executeTurn_eq_next h1 with ⟨_, rfl⟩ | ⟨_, u, us, t', _, he, rfl⟩
    · exact ⟨rfl, rfl⟩
    · exact he.segments

/-- Settles O58: with Execute stalled only Decode and Fetch write, and neither writes architectural state; the micro-ops
keep the parameters and the segment registers too. -/
theorem effectsHappenOnlyAtExecute : Obligations.EffectsHappenOnlyAtExecute := by
  unfold Obligations.EffectsHappenOnlyAtExecute
  refine fun s t h => ⟨fun hx => ?_, step_config h, step_segments h⟩
  rcases step_frame_of_stalled hx h with rfl | hf
  · exact (FrontEndFrame.refl t).no_effect
  · exact hf.no_effect

/-! ### The errors of the storage primitives (R121, R129, R131) -/

/-- Of the three errors of the storage primitives the operation never raises NotFound, raises BufferFull only if `full`
and TableFull only if `table`; an operation for which this holds whatever the two are raises none of the three. -/
structure BufferErrors {α : Type} (full table : Prop) (x : Result α) : Prop where
  notFound : x ≠ .fault .notFound
  bufferFull : x = .fault .bufferFull → full
  tableFull : x = .fault .tableFull → table

section
variable {α β : Type} {full table : Prop}

theorem BufferErrors.next (a : α) : BufferErrors full table (.next a) := ⟨nofun, nofun, nofun⟩

theorem BufferErrors.refused (r : Refusal) : BufferErrors full table (.refused r : Result α) := ⟨nofun, nofun, nofun⟩

theorem BufferErrors.of_eq_next {x : Result α} {a : α} (h : x = .next a) : BufferErrors full table x := h ▸ .next a

/-- A sequence raises what its first part raises, and its second part on an answer of the first. -/
theorem BufferErrors.andThen {x : Result α} {f : α → Result β} (hx : BufferErrors full table x)
    (hf : ∀ a, x = .next a → BufferErrors full table (f a)) : BufferErrors full table (andThen x f) := by
  refine ⟨fun h => ?_, fun h => ?_, fun h => ?_⟩
  · rcases andThen_eq_fault.1 h with h | ⟨a, ha, h⟩
    · exact hx.notFound h
    · exact (hf a ha).notFound h
  · rcases andThen_eq_fault.1 h with h | ⟨a, ha, h⟩
    · exact hx.bufferFull h
    · exact (hf a ha).bufferFull h
  · rcases andThen_eq_fault.1 h with h | ⟨a, ha, h⟩
    · exact hx.tableFull h
    · exact (hf a ha).tableFull h

/-! ### Memory, addresses and operands raise none of them -/

theorem memRead_bufferErrors (s : State) (a : Int) : BufferErrors full table (memRead s a) := by
  unfold memRead
  split
  · exact .next _
  · exact ⟨nofun, nofun, nofun⟩

theorem memWrite_bufferErrors (s : State) (a : Int) (c : Content) : BufferErrors full table (memWrite s a c) := by
  unfold memWrite
  split
  · exact .next _
  · exact ⟨nofun, nofun, nofun⟩

theorem readWritten_bufferErrors (s : State) (a : Int) : BufferErrors full table (readWritten s a) :=
  (memRead_bufferErrors s a).andThen fun c _ =>
    match c with
    | none => .refused _
    | some d => .next d

theorem readNumber_bufferErrors (s : State) (a : Int) : BufferErrors full table (readNumber s a) :=
  (readWritten_bufferErrors s a).andThen fun c _ =>
    match c with
    | .number v => .next v
    | .token _ => ⟨nofun, nofun, nofun⟩

theorem readToken_bufferErrors (s : State) (a : Int) : BufferErrors full table (readToken s a) :=
  (readWritten_bufferErrors s a).andThen fun c _ =>
    match c with
    | .token t => .next t
    | .number _ => ⟨nofun, nofun, nofun⟩

theorem readCells_bufferErrors (s : State) (n : Nat) (a : Int) : BufferErrors full table (readCells s n a) := by
  induction n generalizing a with
  | zero => exact .next _
  | succ n ih => exact (readWritten_bufferErrors s a).andThen fun _ _ => (ih (a + 1)).andThen fun _ _ => .next _

theorem aguApply_bufferErrors (e : Token) (o : AguOp) (a b : Int) : BufferErrors full table (aguApply e o a b) := by
  cases o with
  | add | sub | mul => exact .next _
  | div =>
    rw [aguApply]
    split
    · exact ⟨nofun, nofun, nofun⟩
    · exact .next _

theorem evalPostfix_bufferErrors (e : Token) (f : RegFile) (ts : List ExprTok) (vs : List Int) :
    BufferErrors full table (evalPostfix e f ts vs) := by
  induction ts generalizing vs with
  | nil =>
    match vs with
    | [v] => exact .next v
    | [] | _ :: _ :: _ => exact ⟨nofun, nofun, nofun⟩
  | cons t ts ih =>
    cases t with
    | operand t =>
      rw [evalPostfix]
      cases operandValue f t with
      | some v => exact ih (v :: vs)
      | none => exact ⟨nofun, nofun, nofun⟩
    | op o =>
      match vs with
      | b :: a :: vs => exact (aguApply_bufferErrors e o a b).andThen fun v _ => ih (v :: vs)
      | [] | [_] => exact ⟨nofun, nofun, nofun⟩

theorem generate_bufferErrors (e : Token) (f : RegFile) : BufferErrors full table (generate e f) :=
  evalPostfix_bufferErrors e f _ _

theorem operandVal_bufferErrors (s : State) (a : Operand) : BufferErrors full table (operandVal s a) := by
  cases a with
  | reg t => exact .next _
  | imm v => exact .next v
  | mem e => exact (generate_bufferErrors e s.gpr).andThen fun n _ => readNumber_bufferErrors s n

theorem storeDest_bufferErrors (s : State) (v : Int) (d : Dest) : BufferErrors full table (storeDest s v d) := by
  cases d with
  | reg t => exact .next _
  | mem e => exact (generate_bufferErrors e s.gpr).andThen fun n _ => memWrite_bufferErrors s n _

/-! ### The predictor: TableFull by an update, BufferFull by a gshare prediction -/

theorem circGet_bufferErrors (items : List α) (n : Nat) : BufferErrors full table (circGet items n) :=
  ⟨circGet_ne_fault, fun h => absurd h circGet_ne_fault, fun h => absurd h circGet_ne_fault⟩

theorem circAdd_bufferErrors (cap : Nat) (items : List α) (x : α) : BufferErrors True table (circAdd cap items x) := by
  unfold circAdd
  split
  · exact .next _
  · exact ⟨nofun, fun _ => trivial, nofun⟩

theorem tableAdd_bufferErrors (h : HashFn) (keyOf : α → Int) (slots : List (Option α)) (x : α) :
    BufferErrors full True (tableAdd h keyOf slots x) := by
  unfold tableAdd
  split
  · exact .next _
  · exact ⟨nofun, nofun, fun _ => trivial⟩

/-- An entry is rewritten only under a key that is present, so the guard leaves no NotFound (R335). -/
theorem tablePut_bufferErrors (h : HashFn) (keyOf : α → Int) (slots : List (Option α)) (x : α) :
    BufferErrors full True (tablePut h keyOf slots x) := by
  unfold tablePut
  split
  · next hg =>
    obtain ⟨t, ht⟩ := exists_tableUpdate_of_present (Option.ne_none_iff_isSome.2 hg)
    exact .of_eq_next ht
  · exact tableAdd_bufferErrors h keyOf slots x

variable (c : Config) (p : PredictorState) (a d : Int) (b : Bool)

theorem btbInsert_bufferErrors : BufferErrors full True (btbInsert c p a d) := by
  cases hb : btbGet c p a with
  | some e => exact .of_eq_next (btbInsert_of_present hb)
  | none =>
    rw [btbInsert_of_absent hb]
    exact (tableAdd_bufferErrors _ _ _ _).andThen fun _ _ => .next _

theorem btbPut_bufferErrors : BufferErrors full True (btbPut c p a d) := by
  rw [btbPut_eq_tablePut]
  exact (tablePut_bufferErrors _ _ _ _).andThen fun _ _ => .next _

theorem dirPut_bufferErrors (k : Int) (v : Certainty) : BufferErrors full True (dirPut c p k v) := by
  rw [dirPut_eq_tablePut]
  exact (tablePut_bufferErrors _ _ _ _).andThen fun _ _ => .next _

/-- An update raises TableFull at most, whatever the variant. -/
theorem update_bufferErrors_of_any : BufferErrors full True (update c p a d b) := by
  cases hc : c.predictor with
  | alwaysNotTaken => exact .of_eq_next (update_alwaysNotTaken hc)
  | alwaysTaken =>
    rw [update_alwaysTaken hc]
    exact btbInsert_bufferErrors c p a d
  | oneBit =>
    rw [update_oneBit hc]
    exact (btbInsert_bufferErrors c p a d).andThen fun q _ => dirPut_bufferErrors c q a _
  | twoBit =>
    rw [update_twoBit hc]
    exact (btbInsert_bufferErrors c p a d).andThen fun q _ => dirPut_bufferErrors c q a _
  | gshare =>
    rw [update_gshare hc]
    exact (dirPut_bufferErrors c p _ _).andThen fun p1 _ => (btbPut_bufferErrors c p1 a d).andThen fun _ _ => .next _

/-- Only a variant with tables raises TableFull (R188). -/
theorem update_bufferErrors : BufferErrors full (c.predictor ≠ .alwaysNotTaken) (update c p a d b) where
  notFound := (update_bufferErrors_of_any (full := full) c p a d b).notFound
  bufferFull := (update_bufferErrors_of_any c p a d b).bufferFull
  tableFull ht hc := by
    rw [update_alwaysNotTaken hc] at ht
    cases ht

theorem pushPrediction_bufferErrors : BufferErrors True table (pushPrediction c p b) :=
  (circGet_bufferErrors p.ghr 0).andThen fun e _ => (circAdd_bufferErrors _ p.obq e).andThen fun _ _ => .next _

theorem predictTaken_bufferErrors (pc : Int) : BufferErrors full table (predictTaken c p pc) := by
  unfold predictTaken
  split <;> exact .next _

theorem predictDirection_bufferErrors (pc : Int) : BufferErrors full table (predictDirection c p pc) := by
  unfold predictDirection
  split
  · exact .next _
  · split <;> exact .next _

theorem predictGshare_bufferErrors (pc : Int) : BufferErrors True table (predictGshare c p pc) := by
  unfold predictGshare
  split
  · exact .next _
  · exact (pushPrediction_bufferErrors c p _).andThen fun _ _ => .next _

/-- Only a gshare prediction raises BufferFull (R184, R334). -/
theorem predict_bufferErrors (pc : Int) : BufferErrors (c.predictor = .gshare) table (predict c p pc) := by
  cases hs : p.stalled with
  | true => exact .of_eq_next (if_pos hs)
  | false =>
    cases hc : c.predictor with
    | alwaysNotTaken => exact .of_eq_next (predict_alwaysNotTaken hc hs)
    | alwaysTaken =>
      rw [predict_alwaysTaken hc hs]
      exact predictTaken_bufferErrors c p pc
    | oneBit =>
      rw [predict_oneBit hc hs]
      exact predictDirection_bufferErrors c p pc
    | twoBit =>
      rw [predict_twoBit hc hs]
      exact predictDirection_bufferErrors c p pc
    | gshare =>
      rw [predict_gshare hc hs, eq_self]
      exact predictGshare_bufferErrors c p pc

end

/-! ### The three turns -/

section
variable {full table : Prop} (s : State)

theorem execMicroJmp_bufferErrors (c : Cond) (w : Width) :
    BufferErrors full (s.config.predictor ≠ .alwaysNotTaken) (execMicroJmp c w s) :=
  (circGet_bufferErrors s.rob 0).andThen fun _ _ => (circGet_bufferErrors s.rob 1).andThen fun _ _ =>
    (update_bufferErrors s.config s.predictor _ _ _).andThen fun _ _ => .next _

theorem execMicroSyscall_bufferErrors (w : Width) : BufferErrors full table (execMicroSyscall w s) := by
  unfold execMicroSyscall
  split
  · exact (readCells_bufferErrors s _ _).andThen fun _ _ => .next _
  · split
    · exact .next _
    · exact .refused _

/-- Of the micro-ops only JMP raises an error of the storage primitives: TableFull, by its update (R188). -/
theorem exec_microOp_bufferErrors (u : MicroOp) :
    BufferErrors full (s.config.predictor ≠ .alwaysNotTaken ∧ ∃ c w, u = .jmp c w) (exec u.toInstr s) := by
  cases u with
  | load a w => exact (operandVal_bufferErrors s a).andThen fun _ _ => .next _
  | sto d w => exact storeDest_bufferErrors s _ d
  | add a w => exact (operandVal_bufferErrors s a).andThen fun _ _ => .next _
  | sub a w => exact (operandVal_bufferErrors s a).andThen fun _ _ => .next _
  | cmp a w => exact (operandVal_bufferErrors s a).andThen fun _ _ => .next _
  | jmp c w =>
    have h : BufferErrors full _ (exec (MicroOp.jmp c w).toInstr s) := execMicroJmp_bufferErrors s c w
    exact ⟨h.notFound, h.bufferFull, fun ht => ⟨h.tableFull ht, c, w, rfl⟩⟩
  | syscall w => exact execMicroSyscall_bufferErrors s w
  | noop w => exact .next s

theorem executeStage_bufferErrors :
    BufferErrors full (s.config.predictor ≠ .alwaysNotTaken ∧ ∃ c w, s.pb.head? = some (.jmp c w)) (executeStage s) := by
  unfold executeStage
  split
  · exact .next s
  · refine (circGet_bufferErrors s.pb 0).andThen fun u hu => (circGet_bufferErrors s.rob 0).andThen fun _ _ => ?_
    rw [List.head?_eq_getElem?, circGet_eq_next.1 hu]
    simp only [Option.some.injEq]
    exact (exec_microOp_bufferErrors (s.traceExecuted u) u).andThen fun _ _ => .next _

theorem executeTurn_bufferErrors :
    BufferErrors full
      (s.config.predictor ≠ .alwaysNotTaken ∧ s.stall.execute = false ∧ ∃ c w, s.pb.head? = some (.jmp c w))
      (executeTurn s) := by
  cases hx : s.stall.execute with
  | true => exact .of_eq_next (executeTurn_of_stalled hx)
  | false =>
    rw [executeTurn_of_unstalled hx, eq_self, true_and]
    exact executeStage_bufferErrors s

/-- Decode inserts a group only where both buffers have room for it, so it meets no full buffer (R227, R334). -/
theorem issue_bufferErrors {g : List MicroOp} (hg : g ≠ []) : BufferErrors full table (issue g s) := by
  cases hf : s.cir with
  | none =>
    rw [issue, hf]
    exact .refused _
  | some f =>
    rw [issue_of_cir hf]
    split
    · next hroom => exact .of_eq_next (insertGroup_of_room hg hroom)
    · exact .next _

/-- What decodes has a group, which is not empty (R101). -/
theorem exists_group_of_decode {names : List Gpr} {t : Token} {i : Instr} (h : decode names t = .ok i) :
    ∃ g, groupOf i = some g ∧ g ≠ [] := by
  obtain ⟨m, args, ops, _, _, ha⟩ := decode_eq_ok h
  obtain ⟨g, hg⟩ := groupOf_of_spelledAs (spelledAs_of_assemble ha)
  exact ⟨g, hg, List.ne_nil_of_length_pos (length_groupOf hg).1⟩

theorem decodeStage_bufferErrors : BufferErrors full table (decodeStage s) := by
  unfold decodeStage
  split
  · exact .refused _
  · split
    · next e _ => cases e <;> exact ⟨nofun, nofun, nofun⟩
    · next i hi =>
      obtain ⟨g, hg, hne⟩ := exists_group_of_decode hi
      rw [exec_of_groupOf hg]
      exact issue_bufferErrors s hne

theorem decodeTurn_bufferErrors : BufferErrors full table (decodeTurn s) := by
  unfold decodeTurn
  split
  · exact .next s
  · exact decodeStage_bufferErrors s

theorem fetchToken_bufferErrors (n : Int) : BufferErrors full table (fetchToken s n) := by
  unfold fetchToken
  split
  · exact .next _
  · exact readToken_bufferErrors s n

theorem fetchTurn_bufferErrors : BufferErrors (s.config.predictor = .gshare) table (fetchTurn s) := by
  unfold fetchTurn
  split
  · exact .next _
  · exact (predict_bufferErrors s.config s.predictor s.ripb).andThen fun r _ =>
      (fetchToken_bufferErrors s r.1).andThen fun _ _ => .next _

/-- Execute's turn changes no parameter (R46). -/
theorem executeTurn_config {s t : State} (h : executeTurn s = .next t) : t.config = s.config := by
  rcases executeTurn_eq_next h with ⟨_, rfl⟩ | ⟨_, u, us, t', _, he, rfl⟩
  · rfl
  · exact he.config

/-- In a step TableFull comes from Execute's turn and BufferFull from Fetch's. -/
theorem step_bufferErrors :
    BufferErrors (s.config.predictor = .gshare)
      (s.config.predictor ≠ .alwaysNotTaken ∧ s.stall.execute = false ∧ ∃ c w, s.pb.head? = some (.jmp c w))
      (step s) := by
  unfold step runOnce
  split
  · refine (executeTurn_bufferErrors s.tick).andThen fun s1 h1 => (decodeTurn_bufferErrors s1).andThen fun s2 h2 => ?_
    have hc : s2.config = s.config := (decodeTurn_frame h2).1.config.trans (executeTurn_config (s := s.tick) h1)
    rw [← hc]
    exact fetchTurn_bufferErrors s2
  · exact .next s

end

/-- Settles O54: each of the three errors is traced through the turns to the one operation that can raise it. -/
theorem whereTheBufferErrorsComeFrom : Obligations.WhereTheBufferErrorsComeFrom := by
  unfold Obligations.WhereTheBufferErrorsComeFrom
  intro s
  have h := step_bufferErrors s
  exact ⟨h.notFound, h.bufferFull, h.tableFull⟩

end Sys2Proof.Machine
end

section
/-! What a stalled predictor makes of Fetch: the address in `rip` itself, tagged speculative (O3 after the load, O34
after a correctly predicted branch). -/

namespace Sys2Proof.Machine

/-! ### Fetch with the predictor stalled (R172, R223) -/

theorem predict_of_stalled {c : Config} {p : PredictorState} (hs : p.stalled = true) (pc : Int) :
    predict c p pc = .next (pc, { p with stalled := false }) := if_pos hs

/-- What Fetch writes when it takes the address it stands at: that address, and the token as speculative, for it is not
the next one (R172, R223). -/
def refetched (s : State) (tok : Token) : State :=
  latchFetch (s.setPredictor { s.predictor with stalled := false }) s.ripb s.ripb tok

theorem refetched_cir (s : State) (tok : Token) : (refetched s tok).cir = some ⟨tok, true⟩ := by
  have hne : s.ripb ≠ s.ripb + 1 := by omega
  rw [refetched, latchFetch_cir, decide_eq_true hne]

/-- An address of one byte is what the narrowed program counter reads (R26). -/
theorem toWord_ripb {s : State} (h : s.rip.toNat < 256) : toWord s.ripb = s.rip := by
  rw [ripb_eq, Nat.mod_eq_of_lt h, toWord, BitVec.ofInt_natCast, BitVec.ofNat_toNat, BitVec.setWidth_eq]

theorem refetched_rip {s : State} (h : s.rip.toNat < 256) (tok : Token) : (refetched s tok).rip = s.rip :=
  toWord_ripb h

/-- With the predictor stalled Fetch does what the read of the token at its own address does (R172, R223). -/
theorem fetchStage_of_stalled_predictor {s : State} (hs : s.predictor.stalled = true) :
    fetchStage s = andThen (fetchToken s s.ripb) fun tok => .next (refetched s tok) :=
  fetchStage_of_predict (predict_of_stalled hs s.ripb)

/-! ### The first cycle after the load (R372) -/

/-- A cycle with Execute and Decode stalled and Fetch not is Fetch alone (R222). -/
theorem step_of_only_fetch {s : State} (hrun : s.running = true) (hstall : s.stall = ⟨false, true, true⟩) :
    step s = fetchStage s.tick := by
  have hexe : s.tick.stall.execute = true := congrArg Stalls.execute hstall
  have hdec : s.tick.stall.decode = true := congrArg Stalls.decode hstall
  have hfetch : ¬s.tick.stall.fetch = true := by simp [hstall]
  rw [step_of_running hrun, cycle, executeTurn_of_stalled hexe, andThen_next, decodeTurn_of_stalled hdec, andThen_next,
    fetchTurn, if_neg hfetch]

/-- After the load the narrowed program counter reads a textStart of one byte (R26, R45). -/
theorem ripb_loaded (c : Config) {ts : Int} (ds : Int) (exe : Executable) (h0 : 0 ≤ ts) (h1 : ts ≤ 255) :
    (State.loaded c ts ds exe).ripb = ts := by
  have hnat : (toWord ts).toNat = ts.toNat := by
    rw [toWord, BitVec.toNat_ofInt]
    omega
  have hrip : (State.loaded c ts ds exe).rip = toWord ts := rfl
  rw [ripb_eq, hrip, hnat]
  omega

/-- Settles O3: only Fetch is un-stalled after the load, and the stalled predictor has it take textStart itself. -/
theorem firstCycleFetchesTheEntryPoint : Obligations.FirstCycleFetchesTheEntryPoint := by
  unfold Obligations.FirstCycleFetchesTheEntryPoint
  intro c exe s tok hboot hcs htok
  obtain ⟨ts, ds, _, hheader, hw, rfl⟩ := boot_eq_next hboot
  obtain ⟨hts, _⟩ := executableWf_cons_iff.1 (hheader ▸ hw)
  have hsize := length_le_memSize_of_wf hw
  have hripb : (State.loaded c ts ds exe).tick.ripb = ts := ripb_loaded c ds exe (by omega) hcs
  have hfetch : fetchToken (State.loaded c ts ds exe).tick ts = .next tok := by
    refine fetchToken_of_present ?_
    refine htok.symm.imp_right fun ⟨htd, hexe⟩ => ?_
    have htext : exe[ts.toNat]? = some (.token tok) := hexe
    obtain ⟨hlt, _⟩ := List.getElem?_eq_some_iff.1 htext
    have hmem : ts < c.memSize := by omega
    exact ⟨htd, by omega, hmem, (read_loaded c ts ds exe ts.toNat).trans htext⟩
  have hstep : step (State.loaded c ts ds exe) = .next (refetched (State.loaded c ts ds exe).tick tok) := by
    rw [step_of_only_fetch rfl rfl, fetchStage_of_stalled_predictor rfl, hripb, hfetch, andThen_next]
  have hrip : (refetched (State.loaded c ts ds exe).tick tok).rip = toWord ts := congrArg toWord hripb
  exact ⟨_, hstep, hrip, hrip, rfl, refetched_cir _ tok, rfl, rfl, rfl, rfl, rfl, rfl, rfl, rfl, .of_gpr rfl, rfl,
    .of_mem rfl, ⟨rfl, rfl, rfl⟩, rfl, rfl, rfl, rfl, rfl, rfl, rfl, rfl⟩

/-! ### A correctly predicted branch (R267, R377) -/

theorem stallAfter_of_stallAfterMatch {c : Config} (h : c.stallAfterMatch = true) (met succ : Bool)
    (p : PredictorState) : stallAfter c met succ p = p.stall := if_pos (.inr h)

/-- A JMP whose successor is tagged as its condition holds records the cycle, and with `STALL_AFTER_MATCH` leaves the
predictor stalled (R267). -/
theorem MicroEffect.of_match {c : Cond} {w : Width} {s t : State} {r x : RobEntry} {rs : List RobEntry}
    (h : MicroEffect (.jmp c w) s t) (hrob : s.rob = r :: x :: rs) (hm : condHolds c s.flags = x.speculative)
    (hstall : s.config.stallAfterMatch = true) :
    ∃ p : PredictorState, t = s.recordPredicted.setPredictor p.stall := by
  cases h with
  | @jmpMatch _ _ _ _ _ p =>
    exact ⟨p, by rw [stallAfter_of_stallAfterMatch hstall]⟩
  | jmpMismatch _ hx hm' _ =>
    rw [hrob] at hx
    cases hx
    exact absurd hm hm'

/-- Decode writes neither `rip` nor `cir` (R226). -/
theorem decodeTurn_rip_cir {s t : State} (h : decodeTurn s = .next t) : t.rip = s.rip ∧ t.cir = s.cir := by
  rcases decodeTurn_eq_next h with ⟨_, rfl⟩ | ⟨_, h⟩
  · exact ⟨rfl, rfl⟩
  · obtain ⟨_, _, _, _, _, _, hi⟩ := decodeStage_issues h
    obtain ⟨_, _, ⟨_, rfl⟩ | ⟨_, rfl⟩⟩ := issue_eq_next hi <;> exact ⟨rfl, rfl⟩

/-- With the predictor stalled Fetch's turn is the clearing of its own flag, or takes its own address (R172, R222). -/
theorem fetchTurn_of_stalled_predictor {s t : State} (hs : s.predictor.stalled = true) (h : fetchTurn s = .next t) :
    t = s.setStallFetch false ∨ ∃ tok, t = refetched s tok := by
  rcases fetchTurn_eq_next h with ⟨_, rfl⟩ | ⟨_, h⟩
  · exact .inl rfl
  · rw [fetchStage_of_stalled_predictor hs] at h
    obtain ⟨tok, _, h⟩ := andThen_eq_next.1 h
    cases h
    exact .inr ⟨tok, rfl⟩

/-- Settles O34: the match leaves `rip` and `cir` and stalls the predictor, Decode writes none of them, and Fetch finds
the predictor stalled. -/
theorem matchedBranchMakesFetchRepeatTheAddress : Obligations.MatchedBranchMakesFetchRepeatTheAddress := by
  unfold Obligations.MatchedBranchMakesFetchRepeatTheAddress
  intro s t c w us r x rs hrun hsam hexe hpb hrob hm hbyte h
  rw [step_of_running hrun] at h
  obtain ⟨s1, s2, h1, h2, h3⟩ := cycle_eq_next h
  rcases executeTurn_eq_next h1 with ⟨hidle, _⟩ | ⟨_, u, _, t', hu, he, rfl⟩
  · simp [hexe, hpb] at hidle
  · obtain ⟨rfl, -⟩ := List.cons.inj (hpb.symm.trans hu)
    obtain ⟨p, rfl⟩ := he.of_match hrob hm hsam
    have hrip : s2.rip = s.rip := (decodeTurn_rip_cir h2).1
    have hcir : s2.cir = s.cir := (decodeTurn_rip_cir h2).2
    have hstalled : s2.predictor.stalled = true := congrArg PredictorState.stalled (decodeTurn_frame h2).2
    rcases fetchTurn_of_stalled_predictor hstalled h3 with rfl | ⟨tok, rfl⟩
    · exact ⟨hrip, .inl ⟨hstalled, hcir⟩⟩
    · exact ⟨(refetched_rip (hrip ▸ hbyte) tok).trans hrip, .inr ⟨rfl, tok, refetched_cir s2 tok⟩⟩

end Sys2Proof.Machine
end

section
/-! No hazard on a run (O53): in a state that meets the invariants of the pipeline and of the predictor no turn of the
cycle reads a stale slot or decodes an empty `cir`, and these invariants hold all along a run. -/

namespace Sys2Proof.Machine

/-! ### Operations that are never refused for a hazard -/

/-- The operation is not refused for a read of a stale slot (R123), nor for an empty `cir` (R226). -/
structure HazardFree {α : Type} (x : Result α) : Prop where
  stale : x ≠ .refused .staleSlotRead
  emptyCir : x ≠ .refused .emptyInstructionRegister

section
variable {α β : Type}

theorem HazardFree.next (a : α) : HazardFree (.next a : Result α) := ⟨nofun, nofun⟩

theorem HazardFree.fault (r : Fault) : HazardFree (.fault r : Result α) := ⟨nofun, nofun⟩

theorem HazardFree.andThen {x : Result α} {f : α → Result β} (hx : HazardFree x)
    (hf : ∀ a, x = .next a → HazardFree (f a)) : HazardFree (andThen x f) := by
  cases x with
  | next a => exact hf a rfl
  | fault r => exact .fault r
  | refused r => exact ⟨fun h => hx.stale (by cases h; rfl), fun h => hx.emptyCir (by cases h; rfl)⟩

/-- A slot below the size is none of the stale ones (R123). -/
theorem circGet_hazardFree {items : List α} {n : Nat} (h : n < items.length) : HazardFree (circGet items n) := by
  rw [circGet_eq_next.2 (List.getElem?_eq_getElem h)]
  exact .next _

theorem circAdd_hazardFree (cap : Nat) (items : List α) (x : α) : HazardFree (circAdd cap items x) := by
  unfold circAdd
  split
  · exact .next _
  · exact .fault _

theorem tableAdd_hazardFree (h : HashFn) (keyOf : α → Int) (slots : List (Option α)) (x : α) :
    HazardFree (tableAdd h keyOf slots x) := by
  unfold tableAdd
  split
  · exact .next _
  · exact .fault _

theorem tablePut_hazardFree (h : HashFn) (keyOf : α → Int) (slots : List (Option α)) (x : α) :
    HazardFree (tablePut h keyOf slots x) := by
  unfold tablePut tableUpdate
  split
  · split
    · exact .next _
    · exact .fault _
  · exact tableAdd_hazardFree h keyOf slots x

end

/-! ### Memory, addresses and operands -/

section
variable (s : State)

/-- Of the refusals a read of memory has only that of an Unwritten cell (R70). -/
theorem readWritten_hazardFree (a : Int) : HazardFree (readWritten s a) := by
  unfold readWritten memRead
  split
  · cases s.mem.read a.toNat with
    | none => exact ⟨nofun, nofun⟩
    | some c => exact .next c
  · exact .fault _

theorem readNumber_hazardFree (a : Int) : HazardFree (readNumber s a) :=
  (readWritten_hazardFree s a).andThen fun c _ =>
    match c with
    | .number v => .next v
    | .token _ => .fault _

theorem readToken_hazardFree (a : Int) : HazardFree (readToken s a) :=
  (readWritten_hazardFree s a).andThen fun c _ =>
    match c with
    | .token t => .next t
    | .number _ => .fault _

theorem readCells_hazardFree (n : Nat) (a : Int) : HazardFree (readCells s n a) := by
  induction n generalizing a with
  | zero => exact .next _
  | succ n ih => exact (readWritten_hazardFree s a).andThen fun _ _ => (ih (a + 1)).andThen fun _ _ => .next _

theorem memWrite_hazardFree (a : Int) (c : Content) : HazardFree (memWrite s a c) := by
  unfold memWrite
  split
  · exact .next _
  · exact .fault _

theorem aguApply_hazardFree (e : Token) (o : AguOp) (a b : Int) : HazardFree (aguApply e o a b) := by
  cases o with
  | add | sub | mul => exact .next _
  | div =>
    rw [aguApply]
    split
    · exact .fault _
    · exact .next _

theorem evalPostfix_hazardFree (e : Token) (f : RegFile) (ts : List ExprTok) (vs : List Int) :
    HazardFree (evalPostfix e f ts vs) := by
  induction ts generalizing vs with
  | nil =>
    match vs with
    | [v] => exact .next v
    | [] | _ :: _ :: _ => exact .fault _
  | cons t ts ih =>
    cases t with
    | operand t =>
      rw [evalPostfix]
      cases operandValue f t with
      | some v => exact ih (v :: vs)
      | none => exact .fault _
    | op o =>
      match vs with
      | b :: a :: vs => exact (aguApply_hazardFree e o a b).andThen fun v _ => ih (v :: vs)
      | [] | [_] => exact .fault _

theorem generate_hazardFree (e : Token) (f : RegFile) : HazardFree (generate e f) := evalPostfix_hazardFree e f _ _

theorem operandVal_hazardFree (a : Operand) : HazardFree (operandVal s a) := by
  cases a with
  | reg t => exact .next _
  | imm v => exact .next v
  | mem e => exact (generate_hazardFree e s.gpr).andThen fun n _ => readNumber_hazardFree s n

theorem storeDest_hazardFree (v : Int) (d : Dest) : HazardFree (storeDest s v d) := by
  cases d with
  | reg t => exact .next _
  | mem e => exact (generate_hazardFree e s.gpr).andThen fun n _ => memWrite_hazardFree s n _

end

/-! ### The predictor -/

section
variable (c : Config) (p : PredictorState)

theorem btbInsert_hazardFree (a d : Int) : HazardFree (btbInsert c p a d) := by
  unfold btbInsert
  split
  · exact .next p
  · exact (tableAdd_hazardFree _ _ _ _).andThen fun _ _ => .next _

theorem btbPut_hazardFree (a d : Int) : HazardFree (btbPut c p a d) := by
  rw [btbPut_eq_tablePut]
  exact (tablePut_hazardFree _ _ _ _).andThen fun _ _ => .next _

theorem dirPut_hazardFree (k : Int) (v : Certainty) : HazardFree (dirPut c p k v) := by
  rw [dirPut_eq_tablePut]
  exact (tablePut_hazardFree _ _ _ _).andThen fun _ _ => .next _

theorem update_hazardFree (a d : Int) (b : Bool) : HazardFree (update c p a d b) := by
  cases hc : c.predictor with
  | alwaysNotTaken =>
    rw [update_alwaysNotTaken hc]
    exact .next p
  | alwaysTaken =>
    rw [update_alwaysTaken hc]
    exact btbInsert_hazardFree c p a d
  | oneBit =>
    rw [update_oneBit hc]
    exact (btbInsert_hazardFree c p a d).andThen fun q _ => dirPut_hazardFree c q a _
  | twoBit =>
    rw [update_twoBit hc]
    exact (btbInsert_hazardFree c p a d).andThen fun q _ => dirPut_hazardFree c q a _
  | gshare =>
    rw [update_gshare hc]
    exact (dirPut_hazardFree c p _ _).andThen fun q _ => (btbPut_hazardFree c q a d).andThen fun _ _ => .next _

theorem predictDirection_hazardFree (pc : Int) : HazardFree (predictDirection c p pc) := by
  unfold predictDirection
  split
  · exact .next _
  · split <;> exact .next _

theorem predictGshare_hazardFree (hg : 0 < p.ghr.length) (pc : Int) : HazardFree (predictGshare c p pc) := by
  unfold predictGshare
  split
  · exact .next _
  · refine HazardFree.andThen ?_ fun _ _ => .next _
    exact (circGet_hazardFree hg).andThen fun _ _ => (circAdd_hazardFree _ _ _).andThen fun _ _ => .next _

/-- The one slot a prediction reads is the head of the history, which is never empty (R140, R184). -/
theorem predictVariant_hazardFree (hg : 0 < p.ghr.length) (pc : Int) : HazardFree (predictVariant c p pc) := by
  unfold predictVariant
  cases c.predictor with
  | alwaysNotTaken => exact .next _
  | alwaysTaken =>
    simp only [predictTaken]
    split <;> exact .next _
  | oneBit | twoBit => exact predictDirection_hazardFree c p pc
  | gshare => exact predictGshare_hazardFree c p hg pc

theorem predict_hazardFree (hg : 0 < p.ghr.length) (pc : Int) : HazardFree (predict c p pc) := by
  unfold predict
  split
  · exact .next _
  · exact predictVariant_hazardFree c p hg pc

end

/-! ### Execute: a JMP has its successor behind it (R379) -/

/-- A JMP at the head of the pipeline buffer has an entry behind it: alone it would be the youngest micro-op, with no
older one ahead of it. -/
theorem PipelineInv.two_le_length_rob {s : State} (hs : PipelineInv s) {c : Cond} {w : Width} {us : List MicroOp}
    (hpb : s.pb = .jmp c w :: us) : 2 ≤ s.rob.length := by
  rw [hs.executedInv.length_rob]
  obtain ⟨_, _, _, _, _, hdue, _⟩ := hs
  cases us with
  | nil => exact (hdue (by rw [hpb]; rfl)).1
  | cons v us => simp [hpb]

theorem execMicroJmp_hazardFree {s : State} (h : 2 ≤ s.rob.length) (c : Cond) (w : Width) :
    HazardFree (execMicroJmp c w s) :=
  (circGet_hazardFree (by omega)).andThen fun _ _ => (circGet_hazardFree h).andThen fun _ _ =>
    (update_hazardFree s.config s.predictor _ _ _).andThen fun _ _ => .next _

theorem execMicroSyscall_hazardFree (s : State) (w : Width) : HazardFree (execMicroSyscall w s) := by
  unfold execMicroSyscall
  split
  · exact (readCells_hazardFree s _ _).andThen fun _ _ => .next _
  · split
    · exact .next _
    · exact ⟨nofun, nofun⟩

/-- Of the micro-ops only JMP reads a slot of a buffer: its own and the one behind it (R267). -/
theorem exec_microOp_hazardFree {s : State} {u : MicroOp} (hjmp : ∀ c w, u = .jmp c w → 2 ≤ s.rob.length) :
    HazardFree (exec u.toInstr s) := by
  cases u with
  | load a w => exact (operandVal_hazardFree s a).andThen fun _ _ => .next _
  | sto d w => exact storeDest_hazardFree s _ d
  | add a w => exact (operandVal_hazardFree s a).andThen fun _ _ => .next _
  | sub a w => exact (operandVal_hazardFree s a).andThen fun _ _ => .next _
  | cmp a w => exact (operandVal_hazardFree s a).andThen fun _ _ => .next _
  | jmp c w => exact execMicroJmp_hazardFree (hjmp c w rfl) c w
  | syscall w => exact execMicroSyscall_hazardFree s w
  | noop w => exact .next s

theorem executeTurn_hazardFree {s : State} (hs : PipelineInv s) : HazardFree (executeTurn s) := by
  unfold executeTurn
  split
  · exact .next s
  · cases hpb : s.pb with
    | nil =>
      rw [executeStage, if_pos hpb]
      exact .next s
    | cons u us =>
      have hlen : s.rob.length = (u :: us).length := hpb ▸ hs.executedInv.length_rob
      obtain ⟨r, rs, hrob⟩ := List.exists_cons_of_length_eq_add_one hlen
      rw [executeStage_of_cons hpb hrob]
      refine HazardFree.andThen (exec_microOp_hazardFree fun c w hu => ?_) fun _ _ => .next _
      exact hs.two_le_length_rob (hu ▸ hpb)

/-! ### Decode: `cir` holds an instruction (R226) -/

theorem decodeTurn_hazardFree {s : State} (hs : DecodeReady s) : HazardFree (decodeTurn s) := by
  unfold decodeTurn
  split
  · exact .next s
  · next hd =>
    obtain ⟨f, hf⟩ := Option.ne_none_iff_exists'.1 (hs (by simpa using hd))
    cases hi : decode s.config.gprNames f.token with
    | error e =>
      simp only [decodeStage, hf, hi]
      exact .fault _
    | ok i =>
      obtain ⟨g, hg, hne⟩ := exists_group_of_decode hi
      rw [decodeStage_of_ok hf hi, exec_of_groupOf hg, issue_of_cir hf]
      split
      · next hroom =>
        rw [insertGroup_of_room hne hroom]
        exact .next _
      · exact .next _

/-! ### Fetch: the history is not empty (R140) -/

theorem PredictorInv.ghr_pos {s : State} (hs : PredictorInv s) : 0 < s.predictor.ghr.length := by
  obtain ⟨hw, ⟨hghr, _⟩, _⟩ := hs
  obtain ⟨hpos, _⟩ := Config.ghrLength_of_wf hw
  omega

theorem fetchTurn_hazardFree {s : State} (hs : PredictorInv s) : HazardFree (fetchTurn s) := by
  unfold fetchTurn
  split
  · exact .next _
  · refine (predict_hazardFree s.config s.predictor hs.ghr_pos s.ripb).andThen fun r _ => ?_
    refine HazardFree.andThen ?_ fun _ _ => .next _
    unfold fetchToken
    split
    · exact .next _
    · exact readToken_hazardFree s r.1

/-! ### Runs -/

/-- What keeps a run from both hazards: the invariants of the pipeline and of the predictor. -/
def HazardInv (s : State) : Prop := PipelineInv s ∧ PredictorInv s

theorem step_hazardFree {s : State} (hs : HazardInv s) : HazardFree (step s) := by
  obtain ⟨hp, hq⟩ := hs
  unfold step runOnce
  split
  · refine (executeTurn_hazardFree (s := s.tick) hp).andThen fun s1 h1 => ?_
    have hp1 : ExecutedInv s1 := executeTurn_executedInv (s := s.tick) hp h1
    have hq1 : PredictorInv s1 := executeTurn_keeps_predictorInv (s := s.tick) hq h1
    exact (decodeTurn_hazardFree hp1.ready).andThen fun s2 h2 =>
      fetchTurn_hazardFree (decodeTurn_keeps_predictorInv hq1 h2)
  · exact .next s

/-- A refusal that no step meets where `P` holds is met by no run from there, if every step keeps `P`. -/
theorem run_ne_refused {M : Host.Core} {P : M.State → Prop} {r : M.Refusal}
    (hstep : ∀ s, P s → M.step s ≠ .refused r) (hkeep : ∀ s t, P s → M.step s = .next t → P t) {s : M.State}
    (hs : P s) (n : Nat) : M.run n s ≠ .refused r := by
  induction n generalizing s with
  | zero => exact nofun
  | succ n ih =>
    rw [Host.Core.run]
    cases h : M.step s with
    | next t => exact ih (hkeep s t hs h)
    | fault f => exact nofun
    | refused q =>
      rintro ⟨⟩
      exact hstep s hs h

theorem step_keeps_hazardInv (s t : State) (hs : HazardInv s) (h : step s = .next t) : HazardInv t :=
  ⟨stepKeepsThePipelineInvariant s t hs.1 h, stepKeepsThePredictorInvariant s t hs.2 h⟩

theorem loaded_hazardInv {c : Config} (hw : c.wf = true) (ts ds : Int) (exe : Executable) :
    HazardInv (State.loaded c ts ds exe) := ⟨unloaded_pipelineInv hw, unloaded_predictorInv hw⟩

/-- Settles O53: both invariants hold of the load, whatever the size of the memory, and every step keeps them. -/
theorem runsNeverReadAStaleSlot : Obligations.RunsNeverReadAStaleSlot := by
  unfold Obligations.RunsNeverReadAStaleSlot
  intro c exe s n hw hboot
  obtain ⟨ts, ds, _, _, _, rfl⟩ := boot_eq_next hboot
  have hs := loaded_hazardInv hw ts ds exe
  exact ⟨run_ne_refused (M := core) (fun _ h => (step_hazardFree h).stale) step_keeps_hazardInv hs n,
    run_ne_refused (M := core) (fun _ h => (step_hazardFree h).emptyCir) step_keeps_hazardInv hs n⟩

end Sys2Proof.Machine
end
